-- ==== Sys2Proof/Word.lean ====
section
/-! DEFINITION. The 32-bit word of every register and bus access (`00_scope.md` R6 `XLEN`, R7, R8) and its two
integer readings. -/

namespace Sys2Proof

/-- A register, or the data of one admitted bus access: 32 bits, bit 31 most significant (R7). -/
abbrev Word := BitVec 32

/-- An eight-bit lane of a word (R54). -/
abbrev Byte := BitVec 8

/-- `s32(w)`: the two's-complement integer a word denotes (R8, R73). -/
def s32 (w : Word) : Int := w.toInt

/-- `u32(i)`: the word congruent to the integer `i` modulo 2^32 (R8). -/
def u32 (i : Int) : Word := BitVec.ofInt 32 i

end Sys2Proof
end

