-- ==== Sys2Proof/Syntax.lean ====
section
/-! DEFINITION. The twelve commands of `30_encoding.md` R84, one constructor for each row of `spec/opcode_table.json`. -/

namespace Sys2Proof

/-- A command of the block. No command carries an operand: each takes its operands from fixed registers and leaves its
results in fixed registers (R19, R81). -/
inductive Instr where
  /-- MIDENT, `get_identity` (R133). -/
  | mident
  /-- MMUL, `mat_multiply` (R134). -/
  | mmul
  /-- MTRANS, `translate` (R135). -/
  | mtrans
  /-- MSCALE, `scale` (R136). -/
  | mscale
  /-- MROT, `rotate` (R137). -/
  | mrot
  /-- MPERSP, `perspective` (R138). -/
  | mpersp
  /-- MINV, `matrix_inverse` (R139). -/
  | minv
  /-- MCHKINV, `check_inverse` (R140). -/
  | mchkinv
  /-- MSOLVE, `get_transform_matrix` (R150). -/
  | msolve
  /-- QENC, `inv_matrix2complement` (R160). -/
  | qenc
  /-- AREA, `ppe_get_area` (R170). -/
  | area
  /-- RISECT, `ppe_rect_intersect` (R185). -/
  | risect
  deriving DecidableEq, Repr

end Sys2Proof
end

