-- ==== Sys2Proof/Config.lean ====
section
/-! DEFINITION. What the spec leaves open for the whole machine: the parameter `BASE` and the free values
(`00_scope.md` R6, R13; `93_implementation_defined.md` U2, U6, U7, U9). Neither has a body, so no proof can see a value. -/

namespace Sys2Proof

/-- A free 32-bit value (`UNSPEC32` and the draws of `NANBITS`, R13, R55, R108, R162): draw number `n` of the run. The
step reads the counter `State.draws` and advances it, so that every draw has a number of its own. Log entry 2. -/
opaque Config.freeWord : Nat → BitVec 32

/-- Which 0x200-byte slot of the address space the block answers in: the open parameter `BASE` divided by 0x200. -/
opaque Config.baseSlot : Nat

/-- `BASE`, the byte address of register offset 0: open, and a multiple of 0x200 (R6, R51). Log entry 8. -/
def Config.base : Nat := 0x200 * Config.baseSlot

end Sys2Proof
end

