-- ==== Sys2Proof/Machine/Access.lean ====
section
/-! DEFINITION. What reaches the block from outside: the host's bus accesses and the reset input, and the moments the block
takes its own step (`00_scope.md` R10, R14; `70_reset_and_hazards.md` R240, R252). -/

namespace Sys2Proof.Machine

/-- One bus access of a host: `MemRead(addr, bytes)` or `MemWrite(addr, bytes, value)` (R10). The width is carried so
that an access the block does not admit (R52) can be asked for; the value matters only for the admitted width 4. -/
inductive Access where
  | read (addr bytes : Nat)
  | write (addr bytes : Nat) (value : Word)
  deriving DecidableEq, Repr

/-- The byte address of an access. -/
def Access.addr : Access → Nat
  | .read a _ => a
  | .write a _ _ => a

/-- The width of an access in bytes. -/
def Access.bytes : Access → Nat
  | .read _ n => n
  | .write _ n _ => n

/-- One step of one agent (R14), in the total order in which the steps occur (R60, R63). -/
inductive Event where
  /-- The block takes its step, the completion of the command in flight (R41); no step while Idle. -/
  | completion
  /-- A host's bus access. -/
  | access (a : Access)
  /-- The reset input is asserted and released again (R240, R241). -/
  | reset
  deriving DecidableEq, Repr

/-- What the block answers on the bus to an admitted access (R55, R56): the word read, or that a write was taken. -/
inductive Response where
  | data (w : Word)
  | written
  deriving DecidableEq, Repr

end Sys2Proof.Machine
end

