-- ==== Sys2Proof/WellFormed.lean ====
section
/-! DEFINITION. Which terms are well formed: a command (always, `30_encoding.md` R81), a command word's format (R80) and a
bus access the block admits (`20_memory.md` R51, R52, R53). -/

namespace Sys2Proof

/-- Every command is well formed: it has no operand field that could be out of range (R81). -/
def Instr.wellFormed : Instr → Bool
  | .mident | .mmul | .mtrans | .mscale | .mrot | .mpersp | .minv | .mchkinv | .msolve | .qenc | .area | .risect => true

/-- Format `C`: bits 31:8 of a command word are zero (R80). -/
def zeroFieldClear (w : Word) : Bool := w.extractLsb' 8 24 == 0

namespace Machine

/-- The address lies in `[BASE, BASE + 0x1FF]` (R51). -/
def Access.inBlock (a : Access) : Bool := Config.base ≤ a.addr && a.addr < Config.base + 0x200

/-- The access is 32 bits wide (R52). -/
def Access.wordWide (a : Access) : Bool := a.bytes == 4

/-- The address is a multiple of 4 (R53). -/
def Access.aligned (a : Access) : Bool := a.addr % 4 == 0

/-- The accesses the block admits (R51, R52, R53). -/
def Access.admitted (a : Access) : Bool := a.inBlock && a.wordWide && a.aligned

end Machine

end Sys2Proof
end

