-- ==== Sys2Proof/Decode.lean ====
section
/-! DEFINITION. Decoding of a command word, total on every 32-bit word and rejecting by name, and the encoder
(`30_encoding.md` R80 to R87). -/

namespace Sys2Proof

/-- Why a word encodes no command (R82, R86). -/
inductive Illegal where
  /-- Bits 31:8 are not zero. -/
  | zeroField
  /-- Bits 31:8 are zero and bits 7:0 are no opcode of R84. -/
  | opcode (op : Byte)
  deriving DecidableEq, Repr

/-- What a command word decodes to: one of the twelve commands, or illegal for a named reason (R82). -/
inductive Decoded where
  | command (i : Instr)
  | illegal (why : Illegal)
  deriving DecidableEq, Repr

/-- The units of the block (R1), to which the opcode groups belong (R83). -/
inductive BlockUnit where
  /-- MAU, the matrix algebra unit. -/
  | matrixAlgebra
  /-- FXC, the fixed-point codec. -/
  | fixedPointCodec
  /-- ACP, the area/clip projector. -/
  | areaProjector
  deriving DecidableEq, Repr

/-- The field `OP`, bits 7:0 (R80). -/
def opField (w : Word) : Byte := w.extractLsb' 0 8

/-- The opcode map read from left to right (R84). -/
def commandOfOpcode (op : Byte) : Option Instr :=
  if op = 0x01 then some .mident
  else if op = 0x02 then some .mmul
  else if op = 0x03 then some .mtrans
  else if op = 0x04 then some .mscale
  else if op = 0x05 then some .mrot
  else if op = 0x06 then some .mpersp
  else if op = 0x07 then some .minv
  else if op = 0x08 then some .mchkinv
  else if op = 0x09 then some .msolve
  else if op = 0x10 then some .qenc
  else if op = 0x20 then some .area
  else if op = 0x21 then some .risect
  else none

/-- Decoding of the word written to `CMD` (R82). -/
def decode (w : Word) : Decoded :=
  if zeroFieldClear w then
    match commandOfOpcode (opField w) with
    | some i => .command i
    | none => .illegal (.opcode (opField w))
  else .illegal .zeroField

/-- The opcode of each command (R84). -/
def opcode : Instr → Byte
  | .mident => 0x01
  | .mmul => 0x02
  | .mtrans => 0x03
  | .mscale => 0x04
  | .mrot => 0x05
  | .mpersp => 0x06
  | .minv => 0x07
  | .mchkinv => 0x08
  | .msolve => 0x09
  | .qenc => 0x10
  | .area => 0x20
  | .risect => 0x21

/-- The command word `match(mnemonic)`: the opcode under 24 zero bits (R80, R84). -/
def encode (i : Instr) : Word := 0#24 ++ opcode i

/-- The unit that carries a command out (R1, R19). -/
def unitOf : Instr → BlockUnit
  | .mident | .mmul | .mtrans | .mscale | .mrot | .mpersp | .minv | .mchkinv | .msolve => .matrixAlgebra
  | .qenc => .fixedPointCodec
  | .area | .risect => .areaProjector

/-- The unit whose opcode group holds an opcode, if any (R83). -/
def groupOf (op : Byte) : Option BlockUnit :=
  if 0x01 ≤ op ∧ op ≤ 0x0F then some .matrixAlgebra
  else if 0x10 ≤ op ∧ op ≤ 0x1F then some .fixedPointCodec
  else if 0x20 ≤ op ∧ op ≤ 0x2F then some .areaProjector
  else none

/-- The command a decoded word stands for, if it is one. -/
def Decoded.command? : Decoded → Option Instr
  | .command i => some i
  | .illegal _ => none

/-- The command word that carries `w` in its low `nbits` bits and zero above them. A command is one 32-bit word that the
bus carries as a word (R54, R80), so the word is numbered as `spec/opcode_table.json` numbers it. -/
def tableWord (nbits w : Nat) : Word := BitVec.ofNat 32 (w % 2 ^ nbits)

/-- What the decoder reads from a command whose bits are `w`; none for an illegal word, and none for a row longer than the
one command length (R80). -/
def decodeTableWord (nbits w : Nat) : Option Instr :=
  if nbits ≤ 32 then (decode (tableWord nbits w)).command? else none

end Sys2Proof
end

