-- ==== Sys2Proof/Machine/Flags.lean ====
section
/-! DEFINITION. The fields of `STATUS` and `CTRL` (`10_state.md` R34, R35) and the flag rules that read or write them. -/

namespace Sys2Proof.Machine

/-- The `STATUS` word with the given fields; bits 31:5 are reserved and zero (R34). -/
def statusWord (busy done ok ill qovf : Bool) : Word :=
  0#27 ++ BitVec.ofBool qovf ++ BitVec.ofBool ill ++ BitVec.ofBool ok ++ BitVec.ofBool done ++ BitVec.ofBool busy

/-- `BUSY`, bit 0: 1 = Running, 0 = Idle. -/
def busyBit (status : Word) : Bool := status.getLsbD 0

/-- `DONE`, bit 1: a command has completed since the flag was last cleared. -/
def doneBit (status : Word) : Bool := status.getLsbD 1

/-- `OK`, bit 2: boolean result of the last completed command. -/
def okBit (status : Word) : Bool := status.getLsbD 2

/-- `ILL`, bit 3, sticky: a word that encodes no command was issued. -/
def illBit (status : Word) : Bool := status.getLsbD 3

/-- `QOVF`, bit 4, sticky: QENC met an element out of range or non-finite. -/
def qovfBit (status : Word) : Bool := status.getLsbD 4

/-- The `CTRL` word with the given field; bits 31:1 are reserved and zero (R35). -/
def ctrlWord (ie : Bool) : Word := 0#31 ++ BitVec.ofBool ie

/-- `IE`, bit 0 of `CTRL`: completion-interrupt enable. -/
def ieBit (ctrl : Word) : Bool := ctrl.getLsbD 0

/-- What a read of `STATUS` returns: all fields, the reserved bits as 0 (R34). -/
def statusRead (status : Word) : Word :=
  statusWord (busyBit status) (doneBit status) (okBit status) (illBit status) (qovfBit status)

/-- What a read of `CTRL` returns: `IE`, the reserved bits as 0 (R35). -/
def ctrlRead (ctrl : Word) : Word := ctrlWord (ieBit ctrl)

/-- A host write of `v` to `STATUS`: each W1C field (`DONE`, `ILL`, `QOVF`) whose written bit is 1 is cleared; the written
bits of RO and reserved fields are ignored (R34). -/
def statusAfterWrite (status v : Word) : Word :=
  statusWord (busyBit status) (doneBit status && !doneBit v) (okBit status) (illBit status && !illBit v)
    (qovfBit status && !qovfBit v)

/-- A host write of `v` to `CTRL`: `IE` takes bit 0, the rest is ignored (R35, R56 b). -/
def ctrlAfterWrite (v : Word) : Word := ctrlWord (ieBit v)

/-- Command acceptance: `BUSY <- 1`, `DONE <- 0`, `OK <- 0`, the sticky flags kept (R40). -/
def statusAfterAccept (status : Word) : Word := statusWord true false false (illBit status) (qovfBit status)

/-- Completion: `BUSY <- 0`, `DONE <- 1`, `OK` as given, each sticky flag set when asked for and otherwise kept
(R39, R41, R215). -/
def statusAfterCompletion (status : Word) (ok setIll setQovf : Bool) : Word :=
  statusWord false true ok (illBit status || setIll) (qovfBit status || setQovf)

/-- The line `irq = CTRL.IE AND STATUS.DONE` (R43, R216). -/
def irqLine (ctrl status : Word) : Bool := ieBit ctrl && doneBit status

end Sys2Proof.Machine
end

