-- ==== Sys2Proof/Machine/Float.lean ====
section
/-! DEFINITION. Kind `f32` and its arithmetic (`30_encoding.md` R70, R71; `40_arithmetic.md` R100 to R111, R120): IEEE 754
binary32, round to nearest even, one rounding per operation, gradual underflow, no flags.

A finite value is a sign and a whole number of units of 2^-149, the spacing of the subnormal grid: every finite binary32
value is such a number, so sums, products and quotients are exact ratios of natural numbers until the one rounding. -/

namespace Sys2Proof.Machine

/-- The value of an `f32` bit pattern (R70). A NaN has no sign and no payload here: no rule depends on them (R108). -/
inductive F32 where
  | nan
  | inf (neg : Bool)
  /-- `(-1)^neg * units * 2^-149`; with `units = 0` the two zeros. -/
  | fin (neg : Bool) (units : Nat)
  deriving DecidableEq, Repr

/-- The bit pattern with the given sign, biased exponent and fraction (R70). -/
def packF32 (neg : Bool) (e f : Nat) : Word := BitVec.ofBool neg ++ BitVec.ofNat 8 e ++ BitVec.ofNat 23 f

/-- Bit 31, the sign (R70). -/
def signField (w : Word) : Bool := w.getLsbD 31

/-- Bits 30:23, the biased exponent (R70). -/
def exponentField (w : Word) : Nat := (w.extractLsb' 23 8).toNat

/-- Bits 22:0, the fraction (R70). -/
def fractionField (w : Word) : Nat := (w.extractLsb' 0 23).toNat

/-- The value a bit pattern denotes (R70). -/
def F32.ofWord (w : Word) : F32 :=
  if exponentField w = 255 then
    if fractionField w = 0 then .inf (signField w) else .nan
  else if exponentField w = 0 then .fin (signField w) (fractionField w)
  else .fin (signField w) ((2 ^ 23 + fractionField w) * 2 ^ (exponentField w - 1))

/-- A NaN bit pattern made from a draw `r`: `e = 255` and `f ≠ 0`, otherwise free (R108, parameter `NANBITS`). -/
def nanWord (r : Word) : Word :=
  packF32 (signField r) 255 (if fractionField r = 0 then 1 else fractionField r)

/-- The exponent of the local spacing at `q` units: spacing 1 below 2^24 units, and then 24 significant bits (R70). -/
def spacingExp (q : Nat) : Nat := q.log2 - 23

/-- The bit pattern of a value, with the draw `r` for a NaN (R70, R108). -/
def F32.toWord (r : Word) : F32 → Word
  | .nan => nanWord r
  | .inf neg => packF32 neg 255 0
  | .fin neg u =>
    if u < 2 ^ 23 then packF32 neg 0 u
    else packF32 neg (spacingExp u + 1) (u / 2 ^ spacingExp u - 2 ^ 23)

/-- `+0.0` (R71). -/
def fzero : F32 := .fin false 0

/-- `1.0` (R71). -/
def fone : F32 := .fin false (2 ^ 149)

/-- The integer nearest to `num / den`, ties to even. -/
def roundHalfEven (num den : Nat) : Nat :=
  if 2 * (num % den) < den then num / den
  else if den < 2 * (num % den) then num / den + 1
  else num / den + num / den % 2

/-- `num / den` units rounded to the nearest multiple of the local spacing of binary32, ties to even, the exponent range
unbounded above (R100). -/
def roundUnits (num den : Nat) : Nat :=
  roundHalfEven num (den * 2 ^ spacingExp (num / den)) * 2 ^ spacingExp (num / den)

/-- The units just above the largest finite value `(2^24 - 1) * 2^253` of binary32 (R100). -/
def overflowUnits : Nat := 2 ^ 24 * 2 ^ 253

/-- The rounded value of magnitude `num / den` units; beyond the largest finite value, the infinity of the sign (R100). -/
def roundF32 (neg : Bool) (num den : Nat) : F32 :=
  if roundUnits num den < overflowUnits then .fin neg (roundUnits num den) else .inf neg

/-- `fadd` (R101). -/
def fadd : F32 → F32 → F32
  | .nan, _ => .nan
  | .inf _, .nan => .nan
  | .inf a, .inf b => if a = b then .inf a else .nan
  | .inf a, .fin _ _ => .inf a
  | .fin _ _, .nan => .nan
  | .fin _ _, .inf b => .inf b
  | .fin a u, .fin b v =>
    if a = b then roundF32 a (u + v) 1
    else if u = v then fzero
    else if v < u then roundF32 a (u - v) 1
    else roundF32 b (v - u) 1

/-- `fneg` (R105). -/
def fneg : F32 → F32
  | .nan => .nan
  | .inf a => .inf (!a)
  | .fin a u => .fin (!a) u

/-- `fabs` (R105). -/
def fabs : F32 → F32
  | .nan => .nan
  | .inf _ => .inf false
  | .fin _ u => .fin false u

/-- `fsub` (R102). -/
def fsub (a b : F32) : F32 := fadd a (fneg b)

/-- `fmul` (R103). -/
def fmul : F32 → F32 → F32
  | .nan, _ => .nan
  | .inf _, .nan => .nan
  | .inf a, .inf b => .inf (a != b)
  | .inf a, .fin b v => if v = 0 then .nan else .inf (a != b)
  | .fin _ _, .nan => .nan
  | .fin a u, .inf b => if u = 0 then .nan else .inf (a != b)
  | .fin a u, .fin b v => roundF32 (a != b) (u * v) (2 ^ 149)

/-- `fdiv` (R104). -/
def fdiv : F32 → F32 → F32
  | .nan, _ => .nan
  | .inf _, .nan => .nan
  | .inf _, .inf _ => .nan
  | .inf a, .fin b _ => .inf (a != b)
  | .fin _ _, .nan => .nan
  | .fin a _, .inf b => .fin (a != b) 0
  | .fin a u, .fin b v =>
    if v = 0 then if u = 0 then .nan else .inf (a != b)
    else roundF32 (a != b) (u * 2 ^ 149) v

/-- `i2f` (R107). -/
def i2f (i : Int) : F32 := roundF32 (decide (i < 0)) (i.natAbs * 2 ^ 149) 1

/-- `isnan` (R109). -/
def F32.isNan : F32 → Bool
  | .nan => true
  | .inf _ => false
  | .fin _ _ => false

/-- `isfinite` (R109). -/
def F32.isFinite : F32 → Bool
  | .nan => false
  | .inf _ => false
  | .fin _ _ => true

/-- `real(v) * 2^149` for a finite value, an exact integer (R12, R109); 0 where `real` is not defined. -/
def F32.real : F32 → Int
  | .nan => 0
  | .inf _ => 0
  | .fin neg u => if neg then -(u : Int) else u

/-- `flt`, a < b (R106). -/
def flt : F32 → F32 → Bool
  | .nan, _ => false
  | .inf _, .nan => false
  | .inf a, .inf b => a && !b
  | .inf a, .fin _ _ => a
  | .fin _ _, .nan => false
  | .fin _ _, .inf b => !b
  | .fin a u, .fin b v => decide ((F32.fin a u).real < (F32.fin b v).real)

/-- `fgt`, a > b (R106). -/
def fgt (a b : F32) : Bool := flt b a

/-- `feq`, a = b, the two zeros equal (R106). -/
def feq : F32 → F32 → Bool
  | .nan, _ => false
  | .inf _, .nan => false
  | .inf a, .inf b => a == b
  | .inf _, .fin _ _ => false
  | .fin _ _, .nan => false
  | .fin _ _, .inf _ => false
  | .fin a u, .fin b v => decide ((F32.fin a u).real = (F32.fin b v).real)

/-- `fle`, a ≤ b (R106). -/
def fle (a b : F32) : Bool := flt a b || feq a b

/-- `fge`, a ≥ b (R106). -/
def fge (a b : F32) : Bool := flt b a || feq a b

/-- `floor(real(v))` of an exact integer number of units (R12). -/
def floorUnits (u : Int) : Int := u / 2 ^ 149

/-- `ceil(real(v))` of an exact integer number of units (R12). -/
def ceilUnits (u : Int) : Int := -(-u / 2 ^ 149)

/-- The least of four exact values (R120, R174). -/
def min4 (a b c d : Int) : Int := min (min a b) (min c d)

/-- The greatest of four exact values (R120, R174). -/
def max4 (a b c d : Int) : Int := max (max a b) (max c d)

end Sys2Proof.Machine
end

