-- ==== Sys2Proof/Machine/Layout.lean ====
section
/-! DEFINITION. The shapes of the block's data (`30_encoding.md` R74, R75, R76): a row-major 3×3 matrix, a point, and four
of a kind, for register words and for the values read from them alike. -/

namespace Sys2Proof.Machine

/-- A 3×3 matrix; `m_rc` is row `r`, column `c` (R74). -/
structure Mat3 (α : Type) where
  m00 : α
  m01 : α
  m02 : α
  m10 : α
  m11 : α
  m12 : α
  m20 : α
  m21 : α
  m22 : α
  deriving DecidableEq, Repr

/-- A point (R75). -/
structure Point (α : Type) where
  x : α
  y : α
  deriving DecidableEq, Repr

/-- Four of a kind, in index order: the registers of a rectangle (R76), the points of an array (R75). -/
structure Quad (α : Type) where
  q0 : α
  q1 : α
  q2 : α
  q3 : α
  deriving DecidableEq, Repr

variable {α β : Type}

/-- Element `k = 3*r + c` in row-major order (R74). -/
def Mat3.get (m : Mat3 α) : Fin 9 → α
  | 0 => m.m00
  | 1 => m.m01
  | 2 => m.m02
  | 3 => m.m10
  | 4 => m.m11
  | 5 => m.m12
  | 6 => m.m20
  | 7 => m.m21
  | 8 => m.m22

/-- The matrix with element `k` replaced. -/
def Mat3.set (m : Mat3 α) (k : Fin 9) (v : α) : Mat3 α :=
  match k with
  | 0 => { m with m00 := v }
  | 1 => { m with m01 := v }
  | 2 => { m with m02 := v }
  | 3 => { m with m10 := v }
  | 4 => { m with m11 := v }
  | 5 => { m with m12 := v }
  | 6 => { m with m20 := v }
  | 7 => { m with m21 := v }
  | 8 => { m with m22 := v }

/-- A function of the index and the element, at every element. -/
def Mat3.mapIdx (f : Nat → α → β) (m : Mat3 α) : Mat3 β :=
  ⟨f 0 m.m00, f 1 m.m01, f 2 m.m02, f 3 m.m10, f 4 m.m11, f 5 m.m12, f 6 m.m20, f 7 m.m21, f 8 m.m22⟩

/-- A function at every element. -/
def Mat3.map (f : α → β) (m : Mat3 α) : Mat3 β := m.mapIdx fun _ => f

/-- Some element satisfies `p`. -/
def Mat3.any (p : α → Bool) (m : Mat3 α) : Bool :=
  p m.m00 || p m.m01 || p m.m02 || p m.m10 || p m.m11 || p m.m12 || p m.m20 || p m.m21 || p m.m22

/-- The matrix all of whose elements are `v`. -/
def Mat3.all9 (v : α) : Mat3 α := ⟨v, v, v, v, v, v, v, v, v⟩

/-- A function at both coordinates. -/
def Point.map (f : α → β) (p : Point α) : Point β := ⟨f p.x, f p.y⟩

/-- The entry at an index. -/
def Quad.get (q : Quad α) : Fin 4 → α
  | 0 => q.q0
  | 1 => q.q1
  | 2 => q.q2
  | 3 => q.q3

/-- The four entries with one replaced. -/
def Quad.set (q : Quad α) (k : Fin 4) (v : α) : Quad α :=
  match k with
  | 0 => { q with q0 := v }
  | 1 => { q with q1 := v }
  | 2 => { q with q2 := v }
  | 3 => { q with q3 := v }

/-- A function at every entry. -/
def Quad.map (f : α → β) (q : Quad α) : Quad β := ⟨f q.q0, f q.q1, f q.q2, f q.q3⟩

/-- Every entry satisfies `p`. -/
def Quad.all (p : α → Bool) (q : Quad α) : Bool := p q.q0 && p q.q1 && p q.q2 && p q.q3

/-- The four entries all equal to `v`. -/
def Quad.all4 (v : α) : Quad α := ⟨v, v, v, v⟩

end Sys2Proof.Machine
end

