-- ==== Sys2Proof/Machine/Registers.lean ====
section
/-! DEFINITION. The registers by name: offset, and what a host may do to each (`10_state.md` R20, R36; `20_memory.md` R55,
R56). -/

namespace Sys2Proof.Machine

/-- The 64 registers of the table of R20, an array element under its index and a point under its coordinate. -/
inductive Reg where
  | cmd
  | status
  | ctrl
  | rc
  | mat (k : Fin 9)
  | opm (k : Fin 9)
  | opa
  | opb
  | deg
  | srcX (i : Fin 4)
  | srcY (i : Fin 4)
  | dstX (i : Fin 4)
  | dstY (i : Fin 4)
  | rectA (k : Fin 4)
  | rectB (k : Fin 4)
  | bufW
  | bufH
  | rectO (k : Fin 4)
  | comp (k : Fin 9)
  deriving DecidableEq, Repr

/-- How a host write reaches a register (R20, R56). -/
inductive WriteKind where
  /-- `CMD`: a write issues a command (R56 d, f). -/
  | command
  /-- `STATUS`: a written 1 clears a W1C field (R56 a). -/
  | clearBits
  /-- `CTRL`: the write sets `IE` (R56 b). -/
  | control
  /-- An RW data register (R56 e, f). -/
  | data
  /-- An RO register: writes are ignored (R56 c). -/
  | readOnly
  deriving DecidableEq, Repr

/-- The byte offset of a register from `BASE` (R20). -/
def Reg.offset : Reg → Nat
  | .cmd => 0x000
  | .status => 0x004
  | .ctrl => 0x008
  | .rc => 0x00C
  | .mat k => 0x010 + 4 * k.val
  | .opm k => 0x040 + 4 * k.val
  | .opa => 0x070
  | .opb => 0x074
  | .deg => 0x078
  | .srcX i => 0x080 + 8 * i.val
  | .srcY i => 0x084 + 8 * i.val
  | .dstX i => 0x0A0 + 8 * i.val
  | .dstY i => 0x0A4 + 8 * i.val
  | .rectA k => 0x0C0 + 4 * k.val
  | .rectB k => 0x0D0 + 4 * k.val
  | .bufW => 0x0E0
  | .bufH => 0x0E4
  | .rectO k => 0x0F0 + 4 * k.val
  | .comp k => 0x100 + 4 * k.val

/-- What a host write to a register does (R20, R56). -/
def Reg.writeKind : Reg → WriteKind
  | .cmd => .command
  | .status => .clearBits
  | .ctrl => .control
  | .rc | .rectO _ | .comp _ => .readOnly
  | .mat _ | .opm _ | .opa | .opb | .deg | .srcX _ | .srcY _ | .dstX _ | .dstY _ | .rectA _ | .rectB _ | .bufW | .bufH =>
    .data

/-- The registers a host may read while the block is Running and get their content: `CMD`, `STATUS`, `CTRL` (R55). -/
def Reg.readableWhileRunning : Reg → Bool
  | .cmd | .status | .ctrl => true
  | .rc | .mat _ | .opm _ | .opa | .opb | .deg | .srcX _ | .srcY _ | .dstX _ | .dstY _ | .rectA _ | .rectB _ | .bufW
  | .bufH | .rectO _ | .comp _ => false

/-- The indices of a nine-element array. -/
def nineIndices : List (Fin 9) := [0, 1, 2, 3, 4, 5, 6, 7, 8]

/-- The indices of a four-element array. -/
def fourIndices : List (Fin 4) := [0, 1, 2, 3]

/-- Every register, in the order of R20. -/
def allRegisters : List Reg :=
  [.cmd, .status, .ctrl, .rc] ++ nineIndices.map .mat ++ nineIndices.map .opm ++ [.opa, .opb, .deg]
    ++ fourIndices.map .srcX ++ fourIndices.map .srcY ++ fourIndices.map .dstX ++ fourIndices.map .dstY
    ++ fourIndices.map .rectA ++ fourIndices.map .rectB ++ [.bufW, .bufH] ++ fourIndices.map .rectO
    ++ nineIndices.map .comp

/-- The register at an offset; none at a reserved offset (R36). -/
def regAt (off : Nat) : Option Reg := allRegisters.find? fun r => r.offset == off

end Sys2Proof.Machine
end

