-- ==== Sys2Proof/Machine/State.lean ====
section
/-! DEFINITION. The state of the block (`10_state.md` R20, R42), the reasons a step can stop, and the state after reset
(R44, `70_reset_and_hazards.md` R240). -/

namespace Sys2Proof.Machine

/-- Every register of R20, the latched command of R42, and three fields of the model's own: the steps still to come, the
answer the bus carries, and the number of free values drawn so far. The block has no memory, no program counter and no
mode (R38, R50, R219). -/
structure State where
  /-- `CMD`: the last command word accepted (R33). -/
  cmd : Word
  /-- `STATUS` (R34). -/
  status : Word
  /-- `CTRL` (R35). -/
  ctrl : Word
  /-- `RC`: result code of the last completed command (R32). -/
  rc : Word
  /-- `MAT[0..8]`: the working matrix (R21). -/
  mat : Mat3 Word
  /-- `OPM[0..8]`: the right operand matrix (R22). -/
  opm : Mat3 Word
  /-- `OPA`: first scalar operand (R23). -/
  opa : Word
  /-- `OPB`: second scalar operand (R23). -/
  opb : Word
  /-- `DEG`: rotation angle in whole degrees (R24). -/
  deg : Word
  /-- `SRCPT[0..3]`: the source points (R25). -/
  srcpt : Quad (Point Word)
  /-- `DSTPT[0..3]`: the destination points (R26). -/
  dstpt : Quad (Point Word)
  /-- `RECTA[0..3]`: first rectangle operand (R27). -/
  recta : Quad Word
  /-- `RECTB[0..3]`: second rectangle operand (R28). -/
  rectb : Quad Word
  /-- `BUFW`: destination buffer width (R29). -/
  bufw : Word
  /-- `BUFH`: destination buffer height (R29). -/
  bufh : Word
  /-- `RECTO[0..3]`: the result rectangle (R30). -/
  recto : Quad Word
  /-- `COMP[0..8]`: the nine quantized matrix words (R31). -/
  comp : Mat3 Word
  /-- The latched command, held from acceptance to completion (R42 a). -/
  latched : Option Word
  /-- The model's own: the steps of the host, the block and the reset input still to come, in their order (R14, R60, R63).
  Log entry 9. -/
  schedule : List Event
  /-- The model's own: the block's answer to the last admitted access, if there was one. Log entry 17. -/
  response : Option Response
  /-- The model's own: how many free values have been drawn (`Config.freeWord`). Log entry 2. -/
  draws : Nat
  deriving DecidableEq, Repr

/-- Why the machine stops with a fault. -/
inductive Fault where
  /-- Raised by a host write to `CMD` or to an RW data register while Running, which is `UNPREDICTABLE` (R13, R56 f, R246,
  U3). Safe: nothing is claimed of any later state. Log entry 6. -/
  | writeWhileRunning (r : Reg)
  /-- Raised by a completion with `BUSY = 1` and no command latched, a state no run reaches (the statement
  `StepKeepsInvariant`). Safe. Log entry 15. -/
  | nothingLatched
  deriving DecidableEq, Repr

/-- Why the model has no step. -/
inductive Refusal where
  /-- Raised by an arm of `exec` that has no meaning yet (there is none). Safe. -/
  | notModelled (mnemonic : String)
  /-- Raised by an access outside `[BASE, BASE + 0x1FF]`, which is not an access to this block (R51, U5). Safe. -/
  | outsideBlock
  /-- Raised by an access of a width other than 32 bits: the block signals a bus error, no state changes, a model refuses
  (R52, U4). Safe. Log entry 7. -/
  | busErrorWidth
  /-- Raised by a misaligned access: the block signals a bus error, no state changes, a model refuses (R53, U4). Safe. Log
  entry 7. -/
  | busErrorAlignment
  deriving DecidableEq, Repr

/-- The state after reset (R44, R240): `CMD`, `STATUS` and `CTRL` are 0, no command is latched. The source and the spec give
`RC` and the data registers no value; here they are 0 (log entry 1, DESIGN CHOICE). Nothing is scheduled, answered or
drawn yet (log entries 2, 9, 17). -/
def State.reset : State where
  cmd := 0
  status := 0
  ctrl := 0
  rc := 0
  mat := .all9 0
  opm := .all9 0
  opa := 0
  opb := 0
  deg := 0
  srcpt := .all4 ⟨0, 0⟩
  dstpt := .all4 ⟨0, 0⟩
  recta := .all4 0
  rectb := .all4 0
  bufw := 0
  bufh := 0
  recto := .all4 0
  comp := .all9 0
  latched := none
  schedule := []
  response := none
  draws := 0

end Sys2Proof.Machine
end

