-- ==== Sys2Proof/Machine/Operands.lean ====
section
/-! DEFINITION. The operand forms: the fields of `STATUS` and `CTRL`, the values of the `f32` registers, the two views of a
rectangle, and the content of a register by name (`10_state.md` R20 to R35, `30_encoding.md` R70 to R76). A command reads
its operands through these and in no other way. -/

namespace Sys2Proof.Machine

/-- `STATUS.BUSY` (R34): the run state. -/
def State.busy (s : State) : Bool := busyBit s.status

/-- `STATUS.DONE` (R34). -/
def State.done (s : State) : Bool := doneBit s.status

/-- `STATUS.OK` (R34). -/
def State.ok (s : State) : Bool := okBit s.status

/-- `STATUS.ILL` (R34). -/
def State.ill (s : State) : Bool := illBit s.status

/-- `STATUS.QOVF` (R34). -/
def State.qovf (s : State) : Bool := qovfBit s.status

/-- `CTRL.IE` (R35). -/
def State.ie (s : State) : Bool := ieBit s.ctrl

/-- The output line `irq` (R43, R216). -/
def State.irq (s : State) : Bool := irqLine s.ctrl s.status

/-- `m[r][c]` as values (R9, R21). -/
def State.matrix (s : State) : Mat3 F32 := s.mat.map F32.ofWord

/-- `b[r][c]` as values (R9, R22). -/
def State.multiplier (s : State) : Mat3 F32 := s.opm.map F32.ofWord

/-- `OPA` as a value (R23). -/
def State.scalarA (s : State) : F32 := F32.ofWord s.opa

/-- `OPB` as a value (R23). -/
def State.scalarB (s : State) : F32 := F32.ofWord s.opb

/-- `DEG` as a whole number of degrees (R24). -/
def State.degrees (s : State) : Int := s32 s.deg

/-- `SRCPT[0..3]` as values (R25). -/
def State.sourcePoints (s : State) : Quad (Point F32) := s.srcpt.map (Point.map F32.ofWord)

/-- `DSTPT[0..3]` as values (R26). -/
def State.destPoints (s : State) : Quad (Point F32) := s.dstpt.map (Point.map F32.ofWord)

/-- A rectangle in the view `{x,y,w,h}` (R27, R76). -/
structure Extent where
  x : Word
  y : Word
  w : Word
  h : Word
  deriving DecidableEq, Repr

/-- A rectangle in the view `{left,top,right,bottom}`, all four inclusive, as signed integers (R27, R73, R76). -/
structure Sides where
  left : Int
  top : Int
  right : Int
  bottom : Int
  deriving DecidableEq, Repr

/-- The four registers in the view AREA reads (R27, R170). -/
def extentOf (q : Quad Word) : Extent := ⟨q.q0, q.q1, q.q2, q.q3⟩

/-- The four registers in the view RISECT reads (R27, R28, R185). -/
def sidesOf (q : Quad Word) : Sides := ⟨s32 q.q0, s32 q.q1, s32 q.q2, s32 q.q3⟩

/-- `W = s32(BUFW)` (R29, R174). -/
def State.canvasWidth (s : State) : Int := s32 s.bufw

/-- `H = s32(BUFH)` (R29, R174). -/
def State.canvasHeight (s : State) : Int := s32 s.bufh

/-- The content of a register as a host reads it while Idle (R20, R55), reserved bits of `STATUS` and `CTRL` as 0 (R34,
R35). -/
def State.readReg (s : State) : Reg → Word
  | .cmd => s.cmd
  | .status => statusRead s.status
  | .ctrl => ctrlRead s.ctrl
  | .rc => s.rc
  | .mat k => s.mat.get k
  | .opm k => s.opm.get k
  | .opa => s.opa
  | .opb => s.opb
  | .deg => s.deg
  | .srcX i => (s.srcpt.get i).x
  | .srcY i => (s.srcpt.get i).y
  | .dstX i => (s.dstpt.get i).x
  | .dstY i => (s.dstpt.get i).y
  | .rectA k => s.recta.get k
  | .rectB k => s.rectb.get k
  | .bufW => s.bufw
  | .bufH => s.bufh
  | .rectO k => s.recto.get k
  | .comp k => s.comp.get k

/-- The content at an offset as a host reads it while Idle, 0 at a reserved one (R36, R55). -/
def State.readOffset (s : State) (off : Nat) : Word :=
  match regAt off with
  | none => 0
  | some r => s.readReg r

/-- The byte at offset `off` for a platform that numbers the bytes: lane `off % 4` of its word, little-endian (R54). -/
def State.byteAt (s : State) (off : Nat) : Byte :=
  (s.readOffset (4 * (off / 4))).extractLsb' (8 * (off % 4)) 8

end Sys2Proof.Machine
end

