-- ==== Sys2Proof/Machine/Params.lean ====
section
/-! DEFINITION. The parameters of `00_scope.md` R6 that the spec itself fixes (log entry 13). The open ones are in
`Sys2Proof/Config.lean`; the sine table is in `Sys2Proof/Machine/Trig.lean`. -/

namespace Sys2Proof.Machine

/-- `EPS` = 2^-23, the pivot threshold of the solver (R6, R71, R152): 2^126 units of 2^-149. -/
def epsilon : F32 := .fin false (2 ^ 126)

/-- `SOLVE_FAIL`, the code of a failed solve (R6, R154). -/
def solveFail : Int := -1

/-- The code of an illegal command word (R86). -/
def illegalCode : Int := -2

/-- `QSCALE`, the codec's scale factor (R6, R161). -/
def qscale : Nat := 65536

/-- AREA and RISECT: no overlap, no shared pixel (R175, R185, R213). -/
def noOverlapCode : Int := 1

/-- AREA: a projected coordinate is a NaN or an infinity (R173, R213). -/
def nonFiniteCode : Int := 2

/-- AREA: the clipped rectangle is degenerate (R178, R213). -/
def degenerateCode : Int := 3

end Sys2Proof.Machine
end

