-- ==== Sys2Proof/Machine/Ops.lean ====
section
/-! DEFINITION. The shared operations on the state: writing registers, accepting a command, completing one with success or
failure, the illegal completion, and the reset. The block takes no exception (`60_exceptions.md` R210, R218): what stands
in its place is the completion, which records an outcome and may raise `irq`. -/

namespace Sys2Proof.Machine

/-- An RW data register takes `v` and nothing else changes (R45, R56 e). `CMD`, `STATUS`, `CTRL` and the RO registers are
not written this way and are left alone. -/
def State.writeData (s : State) (r : Reg) (v : Word) : State :=
  match r with
  | .mat k => { s with mat := s.mat.set k v }
  | .opm k => { s with opm := s.opm.set k v }
  | .opa => { s with opa := v }
  | .opb => { s with opb := v }
  | .deg => { s with deg := v }
  | .srcX i => { s with srcpt := s.srcpt.set i { s.srcpt.get i with x := v } }
  | .srcY i => { s with srcpt := s.srcpt.set i { s.srcpt.get i with y := v } }
  | .dstX i => { s with dstpt := s.dstpt.set i { s.dstpt.get i with x := v } }
  | .dstY i => { s with dstpt := s.dstpt.set i { s.dstpt.get i with y := v } }
  | .rectA k => { s with recta := s.recta.set k v }
  | .rectB k => { s with rectb := s.rectb.set k v }
  | .bufW => { s with bufw := v }
  | .bufH => { s with bufh := v }
  | .cmd | .status | .ctrl | .rc | .rectO _ | .comp _ => s

/-- The bit patterns of nine results, element `k` with draw `n + k` where it is a NaN (R108). -/
def matrixWords (n : Nat) (m : Mat3 F32) : Mat3 Word := m.mapIdx fun k v => v.toWord (Config.freeWord (n + k))

/-- `MAT <- t`, all nine elements at once (R131). -/
def State.writeMatrix (s : State) (t : Mat3 F32) : State :=
  { s with mat := matrixWords s.draws t, draws := s.draws + 9 }

/-- `RECTO <- (a, b, c, d)` (R30). -/
def State.writeRectO (s : State) (a b c d : Int) : State := { s with recto := ⟨u32 a, u32 b, u32 c, u32 d⟩ }

/-- Command acceptance (R40): the word is kept in `CMD` and latched, the block is Running. -/
def State.accept (s : State) (v : Word) : State :=
  { s with cmd := v, latched := some v, status := statusAfterAccept s.status }

/-- The end of every completion (R41): `RC` and `OK` written, `DONE` set, `BUSY` cleared, the latched command released;
a sticky flag set where the command asks for it. -/
def State.finish (s : State) (ok : Bool) (code : Int) (setIll setQovf : Bool) : State :=
  { s with rc := u32 code, latched := none, status := statusAfterCompletion s.status ok setIll setQovf }

/-- A success: `OK <- 1; RC <- 0` (R130, R212). -/
def State.succeed (s : State) : State := s.finish true 0 false false

/-- `fail(code)`: `OK <- 0; RC <- u32(code)`, otherwise as a success (R212). -/
def State.fail (s : State) (code : Int) : State := s.finish false code false false

/-- Completion of a word that encodes no command (R86). -/
def State.completeIllegal (s : State) : State := s.finish false illegalCode true false

/-- The reset input (R240, R241): the whole state is replaced by the reset state. What the outside still has in store and
the count of draws are not the block's and stay (log entry 11). -/
def State.afterReset (s : State) : State := { State.reset with schedule := s.schedule, draws := s.draws }

/-- The word `v` accepted and the block's own step scheduled next: the very next step completes `v`. What
`State.withFetchWord` places (log entry 10). -/
def State.placeCommand (s : State) (v : Word) : State :=
  { s.accept v with schedule := .completion :: s.schedule }

end Sys2Proof.Machine
end

