-- ==== Sys2Proof/Machine/Bus.lean ====
section
/-! DEFINITION. Host accesses (`20_memory.md` R50 to R60). -/

namespace Sys2Proof.Machine

/-- A host read of the register at an offset (R55). It changes no register. A data or result register read while Running
gives a free word. -/
def State.hostRead (s : State) (off : Nat) : State :=
  match regAt off with
  | none => { s with response := some (.data 0) }
  | some r =>
    if s.busy && !r.readableWhileRunning then
      { s with response := some (.data (Config.freeWord s.draws)), draws := s.draws + 1 }
    else { s with response := some (.data (s.readReg r)) }

/-- A host write of `v` to the register at an offset (R56). -/
def State.hostWrite (s : State) (off : Nat) (v : Word) : Host.Outcome State Fault Refusal :=
  match regAt off with
  | none => .next { s with response := some .written }
  | some r =>
    match r.writeKind with
    | .clearBits => .next { s with status := statusAfterWrite s.status v, response := some .written }
    | .control => .next { s with ctrl := ctrlAfterWrite v, response := some .written }
    | .readOnly => .next { s with response := some .written }
    | .command =>
      if s.busy then .fault (.writeWhileRunning r) else .next { s.accept v with response := some .written }
    | .data =>
      if s.busy then .fault (.writeWhileRunning r) else .next { s.writeData r v with response := some .written }

/-- One bus access: one that is not admitted is refused by name, and an admitted one reaches the register at its offset
from `BASE` (R51, R52, R53). -/
def State.hostAccess (s : State) (a : Access) : Host.Outcome State Fault Refusal :=
  if !a.inBlock then .refused .outsideBlock
  else if !a.wordWide then .refused .busErrorWidth
  else if !a.aligned then .refused .busErrorAlignment
  else
    match a with
    | .read addr _ => .next (s.hostRead (addr - Config.base))
    | .write addr _ v => s.hostWrite (addr - Config.base) v

end Sys2Proof.Machine
end

