-- ==== Sys2Proof/Machine/Codec.lean ====
section
/-! DEFINITION. The fixed-point matrix codec QENC (`43_fixed_point_codec.md` R160 to R163). -/

namespace Sys2Proof.Machine

/-- `trunc(real(v) * 65536)` of a finite value, rounding toward zero (R161). -/
def q16Integer : F32 → Int
  | .nan => 0
  | .inf _ => 0
  | .fin neg u => if neg then -((u * qscale / 2 ^ 149 : Nat) : Int) else ((u * qscale / 2 ^ 149 : Nat) : Int)

/-- The integer lies in -2^31 .. 2^31 - 1 (R163). -/
def inInt32 (q : Int) : Bool := decide (-2 ^ 31 ≤ q) && decide (q ≤ 2 ^ 31 - 1)

/-- The element is non-finite or out of the Q16.16 range (R163). -/
def overflowsQ16 (v : F32) : Bool := !v.isFinite || !inInt32 (q16Integer v)

/-- One word of `COMP`: the low 32 bits of the integer, and a draw for a non-finite element (R161, R162). -/
def q16Word (draw : Word) (v : F32) : Word := if v.isFinite then u32 (q16Integer v) else draw

/-- The nine words, element `k` with draw `n + k` where it is non-finite (R160, R162). -/
def q16Words (n : Nat) (m : Mat3 F32) : Mat3 Word := m.mapIdx fun k v => q16Word (Config.freeWord (n + k)) v

/-- QENC (R160): always succeeds; `QOVF` is set if any element was out of range or non-finite, and otherwise kept. -/
def execQenc (s : State) : Host.Outcome State Fault Refusal :=
  .next ({ s with comp := q16Words s.draws s.matrix, draws := s.draws + 9 }.finish true 0 false (s.matrix.any overflowsQ16))

end Sys2Proof.Machine
end

