-- ==== Sys2Proof/Machine/Trig.lean ====
section
/-! DEFINITION. Sine and cosine of a whole number of degrees (`40_arithmetic.md` R115 to R119). -/

namespace Sys2Proof.Machine

/-- The normative table `T[0..90]` (R118, parameter `SINE_TABLE`), ten entries a line. -/
def sineTable : List Int :=
  [0, 572, 1144, 1715, 2286, 2856, 3425, 3993, 4560, 5126] ++
  [5690, 6252, 6813, 7371, 7927, 8481, 9032, 9580, 10126, 10668] ++
  [11207, 11743, 12275, 12803, 13328, 13848, 14364, 14876, 15383, 15886] ++
  [16383, 16876, 17364, 17846, 18323, 18794, 19260, 19720, 20173, 20621] ++
  [21062, 21497, 21925, 22347, 22762, 23170, 23571, 23964, 24351, 24730] ++
  [25101, 25465, 25821, 26169, 26509, 26841, 27165, 27481, 27788, 28087] ++
  [28377, 28659, 28932, 29196, 29451, 29697, 29934, 30162, 30381, 30591] ++
  [30791, 30982, 31163, 31335, 31498, 31650, 31794, 31927, 32051, 32165] ++
  [32269, 32364, 32448, 32523, 32587, 32642, 32687, 32722, 32747, 32762] ++
  [32767]

/-- `T[d]` for `d` in 0..90 (R118). -/
def sineEntry (d : Nat) : Int := sineTable.getD d 0

/-- `mod360(a)`: the floored remainder of the angle, 0..359 (R115). -/
def mod360 (a : Int) : Nat := (a % 360).toNat

/-- Quadrant reflection of a reduced angle (R116). -/
def reflect (r : Nat) : Int :=
  if r ≤ 90 then sineEntry r
  else if r ≤ 180 then sineEntry (180 - r)
  else if r ≤ 270 then -sineEntry (r - 180)
  else -sineEntry (360 - r)

/-- `isin(a)`, the integer sine of `a` degrees (R116). -/
def isin (a : Int) : Int := reflect (mod360 a)

/-- `icos(a)`, the sine of the reduced angle plus 90 (R116). -/
def icos (a : Int) : Int := isin ((mod360 a : Int) + 90)

/-- `32767.0` (R71, R117). -/
def tableScale : F32 := i2f 32767

/-- `fsin(a)` (R117). -/
def fsin (a : Int) : F32 := fdiv (i2f (isin a)) tableScale

/-- `fcos(a)` (R117). -/
def fcos (a : Int) : F32 := fdiv (i2f (icos a)) tableScale

end Sys2Proof.Machine
end

