-- ==== Sys2Proof/Machine/Matrix.lean ====
section
/-! DEFINITION. The matrix algebra commands MIDENT, MMUL, MTRANS, MSCALE, MROT, MPERSP, MINV, MCHKINV
(`41_matrix_algebra.md`). -/

namespace Sys2Proof.Machine

/-- The identity matrix as `MAT` holds it: 1.0 is 0x3F800000, 0.0 is 0x00000000 (R71, R133). -/
def identityWords : Mat3 Word := ⟨0x3F800000, 0, 0, 0, 0x3F800000, 0, 0, 0, 0x3F800000⟩

/-- One element of a product: three products summed from the left (R134). -/
def dot3 (a0 b0 a1 b1 a2 b2 : F32) : F32 := fadd (fadd (fmul a0 b0) (fmul a1 b1)) (fmul a2 b2)

/-- The product `m * b` (R134). -/
def matMul (m b : Mat3 F32) : Mat3 F32 where
  m00 := dot3 m.m00 b.m00 m.m01 b.m10 m.m02 b.m20
  m01 := dot3 m.m00 b.m01 m.m01 b.m11 m.m02 b.m21
  m02 := dot3 m.m00 b.m02 m.m01 b.m12 m.m02 b.m22
  m10 := dot3 m.m10 b.m00 m.m11 b.m10 m.m12 b.m20
  m11 := dot3 m.m10 b.m01 m.m11 b.m11 m.m12 b.m21
  m12 := dot3 m.m10 b.m02 m.m11 b.m12 m.m12 b.m22
  m20 := dot3 m.m20 b.m00 m.m21 b.m10 m.m22 b.m20
  m21 := dot3 m.m20 b.m01 m.m21 b.m11 m.m22 b.m21
  m22 := dot3 m.m20 b.m02 m.m21 b.m12 m.m22 b.m22

/-- The elementary translation (R135). -/
def translation (x y : F32) : Mat3 F32 := ⟨fone, fzero, x, fzero, fone, y, fzero, fzero, fone⟩

/-- The elementary scaling (R136). -/
def scaling (sx sy : F32) : Mat3 F32 := ⟨sx, fzero, fzero, fzero, sy, fzero, fzero, fzero, fone⟩

/-- The elementary rotation with cosine `c` and sine `s` (R137). -/
def rotationOf (c s : F32) : Mat3 F32 := ⟨c, fneg s, fzero, s, c, fzero, fzero, fzero, fone⟩

/-- The elementary rotation by a whole number of degrees (R137). -/
def rotation (deg : Int) : Mat3 F32 := rotationOf (fcos deg) (fsin deg)

/-- The elementary perspective (R138). -/
def perspective (px py : F32) : Mat3 F32 := ⟨fone, fzero, fzero, fzero, fone, fzero, px, py, fone⟩

/-- A difference of two products, `p*q - r*s`, as the cofactors are formed (R139). -/
def diff2 (p q r s : F32) : F32 := fsub (fmul p q) (fmul r s)

/-- The adjugate `n` (R139). -/
def adjugate (m : Mat3 F32) : Mat3 F32 where
  m00 := diff2 m.m11 m.m22 m.m12 m.m21
  m01 := diff2 m.m02 m.m21 m.m01 m.m22
  m02 := diff2 m.m01 m.m12 m.m02 m.m11
  m10 := diff2 m.m12 m.m20 m.m10 m.m22
  m11 := diff2 m.m00 m.m22 m.m02 m.m20
  m12 := diff2 m.m02 m.m10 m.m00 m.m12
  m20 := diff2 m.m10 m.m21 m.m11 m.m20
  m21 := diff2 m.m01 m.m20 m.m00 m.m21
  m22 := diff2 m.m00 m.m11 m.m01 m.m10

/-- The determinant, expanded along row 0 with the adjugate's first column (R139). -/
def determinant (m : Mat3 F32) : F32 :=
  dot3 m.m00 (adjugate m).m00 m.m01 (adjugate m).m10 m.m02 (adjugate m).m20

/-- The closed-form inverse: each element of the adjugate divided by the determinant (R139). -/
def inverse (m : Mat3 F32) : Mat3 F32 := (adjugate m).map fun n => fdiv n (determinant m)

/-- `MAT <- MAT * b`, successfully (R131, R134). -/
def State.composeWith (s : State) (b : Mat3 F32) : State := (s.writeMatrix (matMul s.matrix b)).succeed

/-- MIDENT (R133). -/
def execMident (s : State) : Host.Outcome State Fault Refusal :=
  .next { s with mat := identityWords }.succeed

/-- MMUL (R134). -/
def execMmul (s : State) : Host.Outcome State Fault Refusal := .next (s.composeWith s.multiplier)

/-- MTRANS (R135). -/
def execMtrans (s : State) : Host.Outcome State Fault Refusal := .next (s.composeWith (translation s.scalarA s.scalarB))

/-- MSCALE (R136). -/
def execMscale (s : State) : Host.Outcome State Fault Refusal := .next (s.composeWith (scaling s.scalarA s.scalarB))

/-- MROT (R137). -/
def execMrot (s : State) : Host.Outcome State Fault Refusal := .next (s.composeWith (rotation s.degrees))

/-- MPERSP (R138). -/
def execMpersp (s : State) : Host.Outcome State Fault Refusal := .next (s.composeWith (perspective s.scalarA s.scalarB))

/-- MINV (R139): no determinant test, no failure. -/
def execMinv (s : State) : Host.Outcome State Fault Refusal := .next (s.writeMatrix (inverse s.matrix)).succeed

/-- MCHKINV (R140): reads nothing and always succeeds. -/
def execMchkinv (s : State) : Host.Outcome State Fault Refusal := .next s.succeed

end Sys2Proof.Machine
end

