-- ==== Sys2Proof/Machine/Projector.lean ====
section
/-! DEFINITION. The area/clip projector AREA and RISECT (`44_area_clip_projector.md` R170 to R185). -/

namespace Sys2Proof.Machine

/-- `wadd(a, b)`: 32-bit wrapping addition (R112). -/
def wadd (a b : Word) : Word := u32 (s32 a + s32 b)

/-- `wsub(a, b)`: 32-bit wrapping subtraction (R112). -/
def wsub (a b : Word) : Word := u32 (s32 a - s32 b)

/-- The far coordinate `x + w - 1` or `y + h - 1`, wrapping (R171). -/
def farCorner (start size : Word) : Word := wsub (wadd start size) 1

/-- The four integer corners of the source rectangle (R171). -/
def corners (e : Extent) : Quad (Point Int) where
  q0 := ⟨s32 e.x, s32 e.y⟩
  q1 := ⟨s32 (farCorner e.x e.w), s32 e.y⟩
  q2 := ⟨s32 (farCorner e.x e.w), s32 (farCorner e.y e.h)⟩
  q3 := ⟨s32 e.x, s32 (farCorner e.y e.h)⟩

/-- One homogeneous coordinate of a corner, the product with the third coordinate 1 omitted (R172). -/
def rowAt (a b c fx fy : F32) : F32 := fadd (fadd (fmul a fx) (fmul b fy)) c

/-- A corner through the matrix, and the homogeneous divide (R172). -/
def project (m : Mat3 F32) (p : Point Int) : Point F32 where
  x := fdiv (rowAt m.m00 m.m01 m.m02 (i2f p.x) (i2f p.y)) (rowAt m.m20 m.m21 m.m22 (i2f p.x) (i2f p.y))
  y := fdiv (rowAt m.m10 m.m11 m.m12 (i2f p.x) (i2f p.y)) (rowAt m.m20 m.m21 m.m22 (i2f p.x) (i2f p.y))

/-- The four projected corners (R172). -/
def projectAll (m : Mat3 F32) (e : Extent) : Quad (Point F32) := (corners e).map (project m)

/-- All eight projected coordinates are finite (R173). -/
def allFinite (p : Quad (Point F32)) : Bool := p.all fun q => q.x.isFinite && q.y.isFinite

/-- The exact bounding box, in units of 2^-149 (R174). -/
structure Box where
  xmin : Int
  xmax : Int
  ymin : Int
  ymax : Int
  deriving DecidableEq, Repr

/-- The bounding box of four finite points (R174). -/
def boxOf (p : Quad (Point F32)) : Box where
  xmin := min4 p.q0.x.real p.q1.x.real p.q2.x.real p.q3.x.real
  xmax := max4 p.q0.x.real p.q1.x.real p.q2.x.real p.q3.x.real
  ymin := min4 p.q0.y.real p.q1.y.real p.q2.y.real p.q3.y.real
  ymax := max4 p.q0.y.real p.q1.y.real p.q2.y.real p.q3.y.real

/-- The box does not overlap `[0,W) × [0,H)` (R175). -/
def offCanvas (b : Box) (w h : Int) : Bool :=
  decide (b.xmax < 0) || decide (b.ymax < 0) || decide (w * 2 ^ 149 ≤ b.xmin) || decide (h * 2 ^ 149 ≤ b.ymin)

/-- The clamped minimum corner along one axis, from the minimum in units and the canvas size (R12, R176). -/
def clampedMin (lo dim : Int) : Int := max 0 (min (floorUnits lo) (dim - 1))

/-- The size along one axis, from the maximum in units, the clamped minimum and the canvas size (R177). -/
def clampedSize (hi origin dim : Int) : Int := min (ceilUnits hi - origin + 1) (dim - origin)

/-- The outcome of AREA: the result rectangle, or the code it fails with (R170). -/
inductive AreaResult where
  | rect (x y w h : Int)
  | failure (code : Int)
  deriving DecidableEq, Repr

/-- Steps 6 to 9: clamp, size, degenerate test (R176, R177, R178). -/
def clipBox (b : Box) (w h : Int) : AreaResult :=
  if clampedSize b.xmax (clampedMin b.xmin w) w ≤ 0 ∨ clampedSize b.ymax (clampedMin b.ymin h) h ≤ 0 then
    .failure degenerateCode
  else
    .rect (clampedMin b.xmin w) (clampedMin b.ymin h) (clampedSize b.xmax (clampedMin b.xmin w) w)
      (clampedSize b.ymax (clampedMin b.ymin h) h)

/-- Steps 3 to 9 on the projected corners, the tests in the fixed order (R170, R217). -/
def areaOf (p : Quad (Point F32)) (w h : Int) : AreaResult :=
  if !allFinite p then .failure nonFiniteCode
  else if offCanvas (boxOf p) w h then .failure noOverlapCode
  else clipBox (boxOf p) w h

/-- The rectangle written and success, or `RECTO <- 0` and `fail(code)` (R170, R212). -/
def State.publishRect (s : State) : AreaResult → State
  | .rect x y w h => (s.writeRectO x y w h).succeed
  | .failure code => (s.writeRectO 0 0 0 0).fail code

/-- AREA (R170). -/
def execArea (s : State) : Host.Outcome State Fault Refusal :=
  .next (s.publishRect (areaOf (projectAll s.matrix (extentOf s.recta)) s.canvasWidth s.canvasHeight))

/-- The intersection of two inclusive rectangles, or code 1 when they share no pixel (R185). -/
def intersect (a b : Sides) : AreaResult :=
  if max a.left b.left ≤ min a.right b.right ∧ max a.top b.top ≤ min a.bottom b.bottom then
    .rect (max a.left b.left) (max a.top b.top) (min a.right b.right) (min a.bottom b.bottom)
  else .failure noOverlapCode

/-- RISECT (R185). -/
def execRisect (s : State) : Host.Outcome State Fault Refusal :=
  .next (s.publishRect (intersect (sidesOf s.recta) (sidesOf s.rectb)))

end Sys2Proof.Machine
end

