-- ==== Sys2Proof/Machine/Solver.lean ====
section
/-! DEFINITION. The four-point transform solver MSOLVE (`42_transform_solver.md` R150 to R156). -/

namespace Sys2Proof.Machine

/-- The augmented system: eight rows of nine columns, column 8 the right-hand side (R151). -/
abbrev Augmented := List (List F32)

/-- `A[r][c]`. -/
def Augmented.entry (a : Augmented) (r c : Nat) : F32 := (a.getD r []).getD c fzero

/-- The x-equation of a point pair (R151). -/
def rowX (p q : Point F32) : List F32 :=
  [p.x, p.y, fone, fzero, fzero, fzero, fneg (fmul p.x q.x), fneg (fmul p.y q.x), q.x]

/-- The y-equation of a point pair (R151). -/
def rowY (p q : Point F32) : List F32 :=
  [fzero, fzero, fzero, p.x, p.y, fone, fneg (fmul p.x q.y), fneg (fmul p.y q.y), q.y]

/-- Assembly, rows `2i` and `2i+1` from point `i` (R151). -/
def assemble (src dst : Quad (Point F32)) : Augmented :=
  [rowX src.q0 dst.q0, rowY src.q0 dst.q0, rowX src.q1 dst.q1, rowY src.q1 dst.q1,
   rowX src.q2 dst.q2, rowY src.q2 dst.q2, rowX src.q3 dst.q3, rowY src.q3 dst.q3]

/-- One comparison of the pivot search: row `r` replaces the best so far only if its magnitude is strictly greater (R152). -/
def betterPivot (a : Augmented) (k : Nat) (best : Nat × F32) (r : Nat) : Nat × F32 :=
  if fgt (fabs (a.entry r k)) best.2 then (r, fabs (a.entry r k)) else best

/-- The pivot row of column `k` and its magnitude, searched among rows `k` to 7 in increasing order (R152). -/
def findPivot (a : Augmented) (k : Nat) : Nat × F32 :=
  (List.range' (k + 1) (7 - k)).foldl (betterPivot a k) (k, fabs (a.entry k k))

/-- Rows `k` and `p` exchanged, all nine columns (R152). -/
def swapRows (a : Augmented) (k p : Nat) : Augmented := (a.set k (a.getD p [])).set p (a.getD k [])

/-- Columns `k` to 8 of a row less `f` times the pivot row; earlier columns as they are (R152). -/
def reduceRow (pivot row : List F32) (k : Nat) (f : F32) : List F32 :=
  row.take k ++ List.zipWith (fun x y => fsub x (fmul f y)) (row.drop k) (pivot.drop k)

/-- The rows below row `k` reduced by it, each with its own multiplier (R152). -/
def reduceBelow (a : Augmented) (k : Nat) : Augmented :=
  a.take (k + 1) ++ (a.drop (k + 1)).map fun row =>
    reduceRow (a.getD k []) row k (fdiv (row.getD k fzero) (a.entry k k))

/-- Step `k` of the elimination; none when the pivot's magnitude is below `EPS` (R152, R154). -/
def eliminateStep (a : Augmented) (k : Nat) : Option Augmented :=
  if flt (findPivot a k).2 epsilon then none else some (reduceBelow (swapRows a k (findPivot a k).1) k)

/-- The eight steps, stopping at the first that fails (R152, R154). -/
def eliminate (a : Augmented) : Option Augmented := [0, 1, 2, 3, 4, 5, 6, 7].foldlM eliminateStep a

/-- `u[k]` from row `k` and the unknowns above `k`, `us = u[k+1..7]` (R153). -/
def solveRow (a : Augmented) (us : List F32) (k : Nat) : F32 :=
  fdiv ((((a.getD k []).drop (k + 1)).zip us).foldl (fun s cu => fsub s (fmul cu.1 cu.2)) (a.entry k 8)) (a.entry k k)

/-- Back substitution, `k` = 7 down to 0: `u[0..7]` (R153). -/
def backSubstitute (a : Augmented) : List F32 :=
  [7, 6, 5, 4, 3, 2, 1, 0].foldl (fun us k => solveRow a us k :: us) []

/-- The matrix of eight unknowns in row-major order, element `[2][2]` = 1 (R151, R153). -/
def matrixOfUnknowns (u : List F32) : Mat3 F32 where
  m00 := u.getD 0 fzero
  m01 := u.getD 1 fzero
  m02 := u.getD 2 fzero
  m10 := u.getD 3 fzero
  m11 := u.getD 4 fzero
  m12 := u.getD 5 fzero
  m20 := u.getD 6 fzero
  m21 := u.getD 7 fzero
  m22 := fone

/-- The transform that maps four source points to four destination points; none when a pivot test fails (R150). -/
def solveTransform (src dst : Quad (Point F32)) : Option (Mat3 F32) :=
  (eliminate (assemble src dst)).map fun a => matrixOfUnknowns (backSubstitute a)

/-- MSOLVE (R150): on failure `MAT` is left exactly as it was (R154). -/
def execMsolve (s : State) : Host.Outcome State Fault Refusal :=
  match solveTransform s.sourcePoints s.destPoints with
  | some m => .next (s.writeMatrix m).succeed
  | none => .next (s.fail solveFail)

end Sys2Proof.Machine
end

