-- ==== Sys2Proof/Machine/Dispatch.lean ====
section
/-! DEFINITION. `exec i s`: the completion step of command `i`, `10_state.md` R41. -/

namespace Sys2Proof.Machine

def exec (i : Instr) (s : State) : Host.Outcome State Fault Refusal :=
  match i with
  | .mident => Sys2Proof.Machine.execMident s
  | .mmul => Sys2Proof.Machine.execMmul s
  | .mtrans => Sys2Proof.Machine.execMtrans s
  | .mscale => Sys2Proof.Machine.execMscale s
  | .mrot => Sys2Proof.Machine.execMrot s
  | .mpersp => Sys2Proof.Machine.execMpersp s
  | .minv => Sys2Proof.Machine.execMinv s
  | .mchkinv => Sys2Proof.Machine.execMchkinv s
  | .msolve => Sys2Proof.Machine.execMsolve s
  | .qenc => Sys2Proof.Machine.execQenc s
  | .area => Sys2Proof.Machine.execArea s
  | .risect => Sys2Proof.Machine.execRisect s

end Sys2Proof.Machine
end

