-- ==== Sys2Proof/Machine/Advance.lean ====
section
/-! DEFINITION. One step of one agent (`00_scope.md` R14): the block's completion, a host access, a reset. -/

namespace Sys2Proof.Machine

/-- The block's step (R41): the latched command is decoded and completed, an illegal word by the rule of R86 (R217). -/
def State.completeLatched (s : State) : Host.Outcome State Fault Refusal :=
  match s.latched with
  | none => .fault .nothingLatched
  | some w =>
    match decode w with
    | .command i => exec i s
    | .illegal _ => .next s.completeIllegal

/-- The block's turn: a completion while Running, and no change while Idle (R14, R41). -/
def State.blockTurn (s : State) : Host.Outcome State Fault Refusal :=
  if s.busy then s.completeLatched else .next s

/-- The next step of the schedule; when nothing is scheduled, the block's turn, so that a command in flight completes
(R226, R252). Log entry 9. -/
def State.advance (s : State) : Host.Outcome State Fault Refusal :=
  match s.schedule with
  | [] => s.blockTurn
  | .completion :: es => { s with schedule := es }.blockTurn
  | .access a :: es => { s with schedule := es }.hostAccess a
  | .reset :: es => .next { s with schedule := es }.afterReset

end Sys2Proof.Machine
end

