-- ==== Sys2Proof/Machine/Step.lean ====
section
/-! DEFINITION. The step of the machine, and how a test places the command the next step runs. -/

namespace Sys2Proof.Machine

/-- One step of the machine (`Sys2Proof.Machine.State.advance`). -/
def step (s : State) : Host.Outcome State Fault Refusal := s.advance

/-- `s` with the command word `w` accepted and the block's completion scheduled next. The block fetches nothing (R38,
R64): a command comes from a host's write to `CMD`, and this stands for that write (log entry 10). -/
def State.withFetchWord (s : State) (nbits w : Nat) : State := s.placeCommand (tableWord nbits w)

end Sys2Proof.Machine
end

