-- ==== Sys2Proof/Machine/ReadWriteSets.lean ====
section
/-! DEFINITION. Which command touches which register (`10_state.md` R37): the table the meanings are held against. -/

namespace Sys2Proof.Machine

/-- `MAT[0..8]`. -/
def matRegs : List Reg := nineIndices.map .mat

/-- `OPM[0..8]`. -/
def opmRegs : List Reg := nineIndices.map .opm

/-- `SRCPT[0..3]` and `DSTPT[0..3]`, both coordinates. -/
def pointRegs : List Reg :=
  fourIndices.map .srcX ++ fourIndices.map .srcY ++ fourIndices.map .dstX ++ fourIndices.map .dstY

/-- `RECTA[0..3]`. -/
def rectARegs : List Reg := fourIndices.map .rectA

/-- `RECTB[0..3]`. -/
def rectBRegs : List Reg := fourIndices.map .rectB

/-- `RECTO[0..3]`. -/
def rectORegs : List Reg := fourIndices.map .rectO

/-- `COMP[0..8]`. -/
def compRegs : List Reg := nineIndices.map .comp

/-- The registers a completing command reads (R37). -/
def readSet : Instr → List Reg
  | .mident | .mchkinv => []
  | .mmul => matRegs ++ opmRegs
  | .mtrans | .mscale | .mpersp => matRegs ++ [.opa, .opb]
  | .mrot => matRegs ++ [.deg]
  | .minv | .qenc => matRegs
  | .msolve => pointRegs
  | .area => rectARegs ++ matRegs ++ [.bufW, .bufH]
  | .risect => rectARegs ++ rectBRegs

/-- The result registers a completing command may write, besides `STATUS` and `RC`, which every completion writes (R37). -/
def writeSet : Instr → List Reg
  | .mident | .mmul | .mtrans | .mscale | .mrot | .mpersp | .minv | .msolve => matRegs
  | .mchkinv => []
  | .qenc => compRegs
  | .area | .risect => rectORegs

end Sys2Proof.Machine
end

