-- ==== Sys2Proof/Safety.lean ====
section
/-! DEFINITION. The terms in which statements about the machine are made: the invariant of every step, what a completion
records, what it keeps, and the host's duty while the block is Running. -/

namespace Sys2Proof.Machine

/-- The result codes of the complete list of R213. -/
def resultCodes : List Int := [0, solveFail, illegalCode, noOverlapCode, nonFiniteCode, degenerateCode]

/-- What holds of the control state after reset and after every step: reserved bits are 0 (R34, R35), a command is latched
exactly while Running and it is the content of `CMD` (R42), acceptance has cleared `DONE` and `OK` (R40), `RC` holds a code of
the list (R213; after reset only because `RC` is then 0, log entry 1) and a true `OK` stands beside `RC` = 0 (R212). -/
structure State.Inv (s : State) : Prop where
  statusReserved : s.status.extractLsb' 5 27 = 0
  ctrlReserved : s.ctrl.extractLsb' 1 31 = 0
  latchedWhileRunning : s.busy = true → s.latched = some s.cmd
  nothingLatchedWhileIdle : s.busy = false → s.latched = none
  doneClearWhileRunning : s.busy = true → s.done = false
  okClearWhileRunning : s.busy = true → s.ok = false
  codeOfTheList : ∃ c ∈ resultCodes, s.rc = u32 c
  okMeansZero : s.ok = true → s.rc = 0

/-- `t` follows `s` by a completion that reports `ok` and `code` (R41, R212). -/
structure CompletedWith (s t : State) (ok : Bool) (code : Int) : Prop where
  idle : t.busy = false
  done : t.done = true
  ok : t.ok = ok
  rc : t.rc = u32 code
  released : t.latched = none
  cmd : t.cmd = s.cmd
  ctrl : t.ctrl = s.ctrl

/-- The registers no command writes, and what lies outside the block, are the same in `t` as in `s` (R22 to R29, R37). -/
structure KeepsOperands (s t : State) : Prop where
  opm : t.opm = s.opm
  opa : t.opa = s.opa
  opb : t.opb = s.opb
  deg : t.deg = s.deg
  srcpt : t.srcpt = s.srcpt
  dstpt : t.dstpt = s.dstpt
  recta : t.recta = s.recta
  rectb : t.rectb = s.rectb
  bufw : t.bufw = s.bufw
  bufh : t.bufh = s.bufh
  schedule : t.schedule = s.schedule
  response : t.response = s.response

/-- The sticky flags are the same in `t` as in `s` (R39). -/
structure KeepsSticky (s t : State) : Prop where
  ill : t.ill = s.ill
  qovf : t.qovf = s.qovf

/-- `t` follows `s` by a completion that may have written `MAT` and nothing else of the data and result registers. -/
structure OnlyMatrixWritten (s t : State) : Prop where
  operands : KeepsOperands s t
  sticky : KeepsSticky s t
  recto : t.recto = s.recto
  comp : t.comp = s.comp

/-- `t` follows `s` by a completion that may have written `RECTO` and nothing else of the data and result registers. -/
structure OnlyRectWritten (s t : State) : Prop where
  operands : KeepsOperands s t
  sticky : KeepsSticky s t
  mat : t.mat = s.mat
  comp : t.comp = s.comp

/-- `MAT[3*r + c]` as a value (R9, R21). -/
def State.matAt (s : State) (r c : Fin 3) : F32 := F32.ofWord (s.mat.get ⟨3 * r.val + c.val, by omega⟩)

/-- `OPM[3*r + c]` as a value (R9, R22). -/
def State.opmAt (s : State) (r c : Fin 3) : F32 := F32.ofWord (s.opm.get ⟨3 * r.val + c.val, by omega⟩)

/-- An element of a matrix given by its rows. -/
def rowsAt (r0 r1 r2 : F32 × F32 × F32) (r c : Fin 3) : F32 :=
  let row := match r with
    | 0 => r0
    | 1 => r1
    | 2 => r2
  match c with
  | 0 => row.1
  | 1 => row.2.1
  | 2 => row.2.2

/-- Element `(r, c)` of the product of `MAT` with a right factor `b`, summed from the left (R134). -/
def State.productAt (s : State) (b : Fin 3 → Fin 3 → F32) (r c : Fin 3) : F32 :=
  fadd (fadd (fmul (s.matAt r 0) (b 0 c)) (fmul (s.matAt r 1) (b 1 c))) (fmul (s.matAt r 2) (b 2 c))

/-- The next step is the block's completion: it is Running and its own step is scheduled, or nothing is (R41). -/
def State.BlockMovesNext (s : State) : Prop :=
  s.busy = true ∧ (s.schedule = [] ∨ ∃ es, s.schedule = .completion :: es)

/-- `s` with one event before those it has scheduled: every state whose next event is `e` is of this form. -/
def State.withEvent (s : State) (e : Event) : State := { s with schedule := e :: s.schedule }

/-- A host read of the 32-bit word at offset `off` (R10). -/
def readAt (off : Nat) : Event := .access (.read (Config.base + off) 4)

/-- A host write of the 32-bit word `v` at offset `off` (R10). -/
def writeAt (off : Nat) (v : Word) : Event := .access (.write (Config.base + off) 4 v)

/-- The word offsets at which no register stands (R36). -/
def reservedOffset (off : Nat) : Prop :=
  off % 4 = 0 ∧ ((0x034 ≤ off ∧ off ≤ 0x03C) ∨ (0x064 ≤ off ∧ off ≤ 0x06C) ∨ off = 0x07C ∨ off = 0x0E8 ∨ off = 0x0EC ∨
    (0x124 ≤ off ∧ off ≤ 0x1FC))

/-- `s` with the event the next step takes removed from the schedule. -/
def State.afterEvent (s : State) : State := { s with schedule := s.schedule.tail }

/-- The host keeps the duty of R246 at the next step: no write to `CMD` or to an RW data register while Running. -/
def State.DutyKept (s : State) : Prop :=
  ∀ (r : Reg) (v : Word) (es : List Event), s.schedule = writeAt r.offset v :: es →
    r.writeKind = .command ∨ r.writeKind = .data → s.busy = false

/-- The next step is no fault. -/
def State.Safe (s : State) : Prop := ∀ f, step s ≠ .fault f

end Sys2Proof.Machine
end

