-- ==== Sys2Proof/Certificates/Slice0/Obligations.lean ====
section
/-! DEFINITION. The statements about the block, each a proposition for the provers. -/

open Sys2Proof Sys2Proof.Machine

/-! ### Command words -/

/-- The twelve words of the opcode map decode to their commands (`30_encoding.md` R84). -/
def Obligations.CommandWordsDecode : Prop :=
  decode 0x00000001 = .command .mident ∧ decode 0x00000002 = .command .mmul ∧ decode 0x00000003 = .command .mtrans ∧
  decode 0x00000004 = .command .mscale ∧ decode 0x00000005 = .command .mrot ∧ decode 0x00000006 = .command .mpersp ∧
  decode 0x00000007 = .command .minv ∧ decode 0x00000008 = .command .mchkinv ∧ decode 0x00000009 = .command .msolve ∧
  decode 0x00000010 = .command .qenc ∧ decode 0x00000020 = .command .area ∧ decode 0x00000021 = .command .risect

/-- The command words are those of the opcode map, each command is decoded from its word, and from no other (`30_encoding.md`
R84). -/
def Obligations.DecodeAndEncodeAgree : Prop :=
  [Instr.mident, .mmul, .mtrans, .mscale, .mrot, .mpersp, .minv, .mchkinv, .msolve, .qenc, .area, .risect].map encode =
    [0x01, 0x02, 0x03, 0x04, 0x05, 0x06, 0x07, 0x08, 0x09, 0x10, 0x20, 0x21] ∧
  ∀ i : Instr, i.wellFormed = true → ∀ w : Word, decode w = .command i ↔ w = encode i

/-- Every word decodes, by its two fields, to the command whose opcode it carries or to a named illegal word (R82). -/
def Obligations.DecodingFollowsTheFields : Prop :=
  ∀ w : Word,
    (w.extractLsb' 8 24 ≠ 0 → decode w = .illegal .zeroField) ∧
    (w.extractLsb' 8 24 = 0 → ∀ i : Instr, w.extractLsb' 0 8 = opcode i → decode w = .command i) ∧
    (w.extractLsb' 8 24 = 0 → (∀ i : Instr, w.extractLsb' 0 8 ≠ opcode i) →
      decode w = .illegal (.opcode (w.extractLsb' 0 8)))

/-! ### The register block and host accesses -/

/-- The offsets of the register table; every register stands at a word offset of its own inside the block, and is found there
(`10_state.md` R20). -/
def Obligations.RegisterMapHasNoAliases : Prop :=
  (Reg.cmd.offset = 0x000 ∧ Reg.status.offset = 0x004 ∧ Reg.ctrl.offset = 0x008 ∧ Reg.rc.offset = 0x00C ∧
    Reg.opa.offset = 0x070 ∧ Reg.opb.offset = 0x074 ∧ Reg.deg.offset = 0x078 ∧
    Reg.bufW.offset = 0x0E0 ∧ Reg.bufH.offset = 0x0E4) ∧
  (∀ k : Fin 9, (Reg.mat k).offset = 0x010 + 4 * k.val ∧ (Reg.opm k).offset = 0x040 + 4 * k.val ∧
    (Reg.comp k).offset = 0x100 + 4 * k.val) ∧
  (∀ k : Fin 4, (Reg.srcX k).offset = 0x080 + 8 * k.val ∧ (Reg.srcY k).offset = 0x084 + 8 * k.val ∧
    (Reg.dstX k).offset = 0x0A0 + 8 * k.val ∧ (Reg.dstY k).offset = 0x0A4 + 8 * k.val ∧
    (Reg.rectA k).offset = 0x0C0 + 4 * k.val ∧ (Reg.rectB k).offset = 0x0D0 + 4 * k.val ∧
    (Reg.rectO k).offset = 0x0F0 + 4 * k.val) ∧
  ∀ r : Reg, r.offset % 4 = 0 ∧ r.offset < 0x200 ∧ regAt r.offset = some r ∧ ∀ q : Reg, q.offset = r.offset → q = r

/-- At a reserved offset a read gives 0 and a write changes nothing, in either run state (R36). -/
def Obligations.ReservedOffsetsHoldNoState : Prop :=
  ∀ (s : State) (off : Nat) (v : Word), reservedOffset off →
    step (s.withEvent (readAt off)) = .next { s with response := some (.data 0) } ∧
    step (s.withEvent (writeAt off v)) = .next { s with response := some .written }

/-- A read returns the register's content while Idle, and of `CMD`, `STATUS` and `CTRL` always; a read of any other register
while Running returns some word; no read changes a register (`20_memory.md` R55). -/
def Obligations.HostReadsByRunState : Prop :=
  ∀ (s : State) (r : Reg),
    (s.busy = false ∨ r = .cmd ∨ r = .status ∨ r = .ctrl →
      step (s.withEvent (readAt r.offset)) = .next { s with response := some (.data (s.readReg r)) }) ∧
    (s.busy = true ∧ r ≠ .cmd ∧ r ≠ .status ∧ r ≠ .ctrl →
      ∃ w, step (s.withEvent (readAt r.offset)) = .next { s with response := some (.data w), draws := s.draws + 1 })

/-- A write to an RW data register while Idle stores its word there and changes no other register; a write to `RC`, `RECTO`
or `COMP` is ignored in either run state (`20_memory.md` R56 c and e, `10_state.md` R45). -/
def Obligations.DataWriteStoresOneWord : Prop :=
  ∀ (s : State) (r : Reg) (v : Word),
    (s.busy = false → r.writeKind = .data → ∃ t, step (s.withEvent (writeAt r.offset v)) = .next t ∧ t.readReg r = v ∧
      (∀ q, q ≠ r → t.readReg q = s.readReg q) ∧ t.latched = s.latched ∧ t.schedule = s.schedule ∧ t.draws = s.draws) ∧
    (r = .rc ∨ (∃ k, r = .rectO k) ∨ (∃ k, r = .comp k) →
      step (s.withEvent (writeAt r.offset v)) = .next { s with response := some .written })

/-- A write to `STATUS` clears each of `DONE`, `ILL`, `QOVF` whose written bit is 1, and changes nothing else; `STATUS`
reads its fields with bits 31:5 zero. In either run state (`10_state.md` R34). -/
def Obligations.StatusWriteClearsFlags : Prop :=
  ∀ (s : State) (v : Word), ∃ t, step (s.withEvent (writeAt 0x004 v)) = .next t ∧
    t.busy = s.busy ∧ t.ok = s.ok ∧ t.done = (s.done && !v.getLsbD 1) ∧ t.ill = (s.ill && !v.getLsbD 3) ∧
    t.qovf = (s.qovf && !v.getLsbD 4) ∧
    (t.readReg .status).toNat =
      t.busy.toNat + 2 * t.done.toNat + 4 * t.ok.toNat + 8 * t.ill.toNat + 16 * t.qovf.toNat ∧
    t = { s with status := t.status, response := some .written }

/-- A write to `CTRL` sets `IE` to bit 0 and nothing else; `CTRL` reads `IE` with bits 31:1 zero. In either run state
(`10_state.md` R35). -/
def Obligations.CtrlWriteSetsEnable : Prop :=
  ∀ (s : State) (v : Word), ∃ t, step (s.withEvent (writeAt 0x008 v)) = .next t ∧ t.ie = v.getLsbD 0 ∧
    (t.readReg .ctrl).toNat = (v.getLsbD 0).toNat ∧ t = { s with ctrl := t.ctrl, response := some .written }

/-- Command acceptance: a write to `CMD` while Idle latches the word, sets `BUSY`, clears `DONE` and `OK`, and changes
nothing else (`10_state.md` R40). -/
def Obligations.CommandAcceptance : Prop :=
  ∀ (s : State) (v : Word), s.busy = false → ∃ t, step (s.withEvent (writeAt 0x000 v)) = .next t ∧
    t.cmd = v ∧ t.latched = some v ∧ t.busy = true ∧ t.done = false ∧ t.ok = false ∧ t.ill = s.ill ∧ t.qovf = s.qovf ∧
    t = { s with cmd := v, latched := some v, status := t.status, response := some .written }

/-- A write to `CMD` or to an RW data register while Running is `UNPREDICTABLE`: the model's fault (`20_memory.md` R56 f;
log entry 6). -/
def Obligations.WriteWhileRunningFaults : Prop :=
  ∀ (s : State) (r : Reg) (v : Word), s.busy = true → r.writeKind = .command ∨ r.writeKind = .data →
    step (s.withEvent (writeAt r.offset v)) = .fault (.writeWhileRunning r)

/-- An access outside the block, of another width, or misaligned is refused by name, and no other is (`20_memory.md` R51,
R52, R53; log entry 7). -/
def Obligations.NotAdmittedAccessRefused : Prop :=
  ∀ (s : State) (a : Access),
    (a.addr < Config.base ∨ Config.base + 0x200 ≤ a.addr → step (s.withEvent (.access a)) = .refused .outsideBlock) ∧
    (Config.base ≤ a.addr → a.addr < Config.base + 0x200 → a.bytes ≠ 4 →
      step (s.withEvent (.access a)) = .refused .busErrorWidth) ∧
    (Config.base ≤ a.addr → a.addr < Config.base + 0x200 → a.bytes = 4 → a.addr % 4 ≠ 0 →
      step (s.withEvent (.access a)) = .refused .busErrorAlignment) ∧
    (Config.base ≤ a.addr → a.addr < Config.base + 0x200 → a.bytes = 4 → a.addr % 4 = 0 →
      ∀ why, step (s.withEvent (.access a)) ≠ .refused why)

/-- The four byte lanes of a word are numbered little-endian (`20_memory.md` R54). -/
def Obligations.ByteLanesLittleEndian : Prop :=
  ∀ (s : State) (off : Nat), off % 4 = 0 →
    (s.readOffset off).toNat = (s.byteAt off).toNat + 2 ^ 8 * (s.byteAt (off + 1)).toNat +
      2 ^ 16 * (s.byteAt (off + 2)).toNat + 2 ^ 24 * (s.byteAt (off + 3)).toNat

/-! ### Reset and the run state -/

/-- After reset `CMD`, `STATUS`, `CTRL` are 0, nothing is latched, `irq` is low, reserved offsets read 0 (`10_state.md`
R44). -/
def Obligations.ResetControlState : Prop :=
  State.reset.cmd = 0 ∧ State.reset.status = 0 ∧ State.reset.ctrl = 0 ∧ State.reset.latched = none ∧
  State.reset.irq = false ∧ ∀ off, reservedOffset off → State.reset.readOffset off = 0

/-- The reset input replaces the whole state by the reset state, in either run state, and a command in flight is abandoned
(`70_reset_and_hazards.md` R241). Two things here are the model's choice: that `RC` and the data registers, which R241 leaves
unspecified, are then 0 (log entries 1 and 11), and that what the outside still has scheduled and the count of free values
stay (log entry 11). -/
def Obligations.ResetAbandonsTheCommand : Prop :=
  ∀ s : State, ∃ t, step (s.withEvent .reset) = .next t ∧ t.busy = false ∧ t.done = false ∧ t.latched = none ∧
    t = { State.reset with schedule := s.schedule, draws := s.draws }

/-- The invariant holds after reset. Its clause that `RC` holds a code of the list rests on the model's choice that `RC` is 0
after reset, where R44 leaves it unspecified (log entry 1). -/
def Obligations.ResetMeetsInvariant : Prop := State.reset.Inv

/-- Every step keeps the invariant: reserved bits stay 0, the latched command is `CMD` while Running and none while Idle,
`DONE` and `OK` stay clear while Running, `RC` holds a code of the list, and a true `OK` stands beside `RC` = 0. At a reset
event the clause on the codes rests on the model's choice that `RC` is 0 after reset, where R44 and R240 leave it unspecified
(log entries 1 and 11). -/
def Obligations.StepKeepsInvariant : Prop := ∀ s t : State, s.Inv → step s = .next t → t.Inv

/-- A host that keeps off `CMD` and the data registers while the block is Running never sees a fault
(`70_reset_and_hazards.md` R246, `60_exceptions.md` R210). -/
def Obligations.DutifulHostNeverFaults : Prop := ∀ s : State, s.Inv → s.DutyKept → s.Safe

/-- The block's step runs the command the latched word decodes to, on the state with that step taken from the schedule. -/
def Obligations.StepRunsDecodedCommand : Prop :=
  ∀ (s : State) (w : Word) (i : Instr), s.BlockMovesNext → s.latched = some w → decode w = .command i →
    step s = exec i s.afterEvent

/-- A word that encodes no command is accepted like any other, and completes with `ILL` set, `OK` clear, `RC` = -2, no data
register changed, and the word still in `CMD` (`30_encoding.md` R86). -/
def Obligations.IllegalWordCompletes : Prop :=
  (∀ (s : State) (w : Word) (why : Illegal), s.busy = false → decode w = .illegal why →
    ∃ t, step (s.withEvent (writeAt 0x000 w)) = .next t ∧ t.cmd = w ∧ t.latched = some w ∧ t.busy = true) ∧
  ∀ (s : State) (w : Word) (why : Illegal), s.BlockMovesNext → s.latched = some w → decode w = .illegal why →
    ∃ t, step s = .next t ∧ t.readReg .cmd = s.cmd ∧ CompletedWith s t false (-2) ∧ t.ill = true ∧ t.qovf = s.qovf ∧
      KeepsOperands s.afterEvent t ∧ t.mat = s.mat ∧ t.recto = s.recto ∧ t.comp = s.comp

/-- Every word in flight completes at the block's step, with a code of the list (`60_exceptions.md` R210, R226). -/
def Obligations.EveryCommandCompletes : Prop :=
  ∀ (s : State) (w : Word), s.BlockMovesNext → s.latched = some w →
    ∃ t ok code, step s = .next t ∧ CompletedWith s t ok code ∧ code ∈ resultCodes ∧ (ok = true ↔ code = 0)

/-- The block has no step while Idle: its turn changes nothing (`00_scope.md` R14, `10_state.md` R41; log entry 9). -/
def Obligations.BlockHasNoStepWhileIdle : Prop :=
  ∀ s : State, s.busy = false → step (s.withEvent .completion) = .next s ∧ (s.schedule = [] → step s = .next s)

/-- `irq` is `IE` and `DONE` at all times and low after reset; every completion sets `DONE`, which can be read whether or not
`IE` is set, and raises `irq` if enabled; a written 1 to `DONE` and the next acceptance lower it, and clearing `IE` lowers it
and keeps `DONE` (`60_exceptions.md` R216). -/
def Obligations.IrqIsEnableAndDone : Prop :=
  State.reset.irq = false ∧ (∀ s : State, s.irq = (s.ctrl.getLsbD 0 && s.status.getLsbD 1)) ∧
  (∀ (s : State) (w : Word), s.BlockMovesNext → s.latched = some w →
    ∃ t, step s = .next t ∧ t.done = true ∧ t.irq = s.ctrl.getLsbD 0) ∧
  (∀ s : State, ∃ t w, step (s.withEvent (readAt 0x004)) = .next t ∧ t.response = some (.data w) ∧ w.getLsbD 1 = s.done) ∧
  (∀ (s : State) (v : Word), v.getLsbD 1 = true →
    ∃ t, step (s.withEvent (writeAt 0x004 v)) = .next t ∧ t.done = false ∧ t.irq = false) ∧
  (∀ (s : State) (v : Word), s.busy = false →
    ∃ t, step (s.withEvent (writeAt 0x000 v)) = .next t ∧ t.done = false ∧ t.irq = false) ∧
  (∀ (s : State) (v : Word), v.getLsbD 0 = false →
    ∃ t, step (s.withEvent (writeAt 0x008 v)) = .next t ∧ t.irq = false ∧ t.done = s.done)

/-! ### Whole-machine rules: who may change what -/

/-- `ILL` is set by the completion of an illegal word and by nothing else, `QOVF` by a completion of QENC and by nothing else;
each is cleared by a written 1 to its bit, or by reset, and by nothing else (`60_exceptions.md` R215). -/
def Obligations.StickyFlagSources : Prop :=
  ∀ s t : State, step s = .next t →
    (s.ill = false → t.ill = true →
      s.BlockMovesNext ∧ ∃ w why, s.latched = some w ∧ decode w = .illegal why) ∧
    (s.qovf = false → t.qovf = true →
      s.BlockMovesNext ∧ ∃ w, s.latched = some w ∧ decode w = .command .qenc) ∧
    (s.ill = true → t.ill = false →
      (∃ v es, s.schedule = writeAt 0x004 v :: es ∧ v.getLsbD 3 = true) ∨ ∃ es, s.schedule = .reset :: es) ∧
    (s.qovf = true → t.qovf = false →
      (∃ v es, s.schedule = writeAt 0x004 v :: es ∧ v.getLsbD 4 = true) ∨ ∃ es, s.schedule = .reset :: es)

/-- The block leaves Idle only by a write to `CMD` and leaves Running only by its own completion or a reset (`10_state.md`
R34, R40, R41). -/
def Obligations.RunStateChanges : Prop :=
  ∀ s t : State, step s = .next t →
    (s.busy = false → t.busy = true → ∃ v es, s.schedule = writeAt 0x000 v :: es) ∧
    (s.busy = true → t.busy = false → s.BlockMovesNext ∨ ∃ es, s.schedule = .reset :: es)

/-- A data register other than `MAT` changes only by a host's write to it while Idle, or by reset: no command writes it
(`10_state.md` R22 to R29). -/
def Obligations.OperandsChangeOnlyByHostWrite : Prop :=
  ∀ s t : State, step s = .next t → ∀ r : Reg, r.writeKind = .data → (∀ k, r ≠ .mat k) → t.readReg r ≠ s.readReg r →
    (s.busy = false ∧ ∃ es, s.schedule = writeAt r.offset (t.readReg r) :: es) ∨ ∃ es, s.schedule = .reset :: es

/-- `RC`, `RECTO` and `COMP` change only by a completion or by reset (`10_state.md` R30, R31, R32). -/
def Obligations.ResultsChangeOnlyByCompletion : Prop :=
  ∀ s t : State, step s = .next t → ∀ r : Reg, r.writeKind = .readOnly → t.readReg r ≠ s.readReg r →
    s.BlockMovesNext ∨ ∃ es, s.schedule = .reset :: es

/-- While the block is Running no access changes an operand, a result or the command in flight, so operands read at
completion are those of the `CMD` write (`20_memory.md` R64). -/
def Obligations.RunningBlockKeepsItsOperands : Prop :=
  ∀ (s t : State) (a : Access), s.busy = true → step (s.withEvent (.access a)) = .next t →
    t.busy = true ∧ t.latched = s.latched ∧ ∀ r : Reg, r ≠ .status → r ≠ .ctrl → t.readReg r = s.readReg r

/-- A completing command changes no register outside its write set, `STATUS` and `RC` apart, and MSOLVE none on failure
(`10_state.md` R37). -/
def Obligations.CommandsWriteOnlyTheirSet : Prop :=
  ∀ (i : Instr) (s t : State), exec i s = .next t →
    (∀ r : Reg, r ∉ writeSet i → r ≠ .status → r ≠ .rc → t.readReg r = s.readReg r) ∧
    (i = .msolve → t.ok = false → t.mat = s.mat)

/-- The outcome of a command depends on its read set alone, free values being the same: two states that agree there give
the same `OK`, `RC` and results (`10_state.md` R37, R39). A failed MSOLVE gives no results. -/
def Obligations.CommandsReadOnlyTheirSet : Prop :=
  ∀ (i : Instr) (s₁ s₂ t₁ t₂ : State), (∀ r ∈ readSet i, s₁.readReg r = s₂.readReg r) → s₁.draws = s₂.draws →
    exec i s₁ = .next t₁ → exec i s₂ = .next t₂ →
      t₁.ok = t₂.ok ∧ t₁.rc = t₂.rc ∧ (i ≠ .msolve ∨ t₁.ok = true → ∀ r ∈ writeSet i, t₁.readReg r = t₂.readReg r) ∧
      (s₁.qovf = s₂.qovf → t₁.qovf = t₂.qovf)

/-! ### Binary32 arithmetic and the table -/

/-- Rounding gives a number with at most 24 significant bits that no other such number is nearer to, and of two equally near
the one with an even significand; below 2^-126 the grid is that of 2^-149, the unit here. A rounded magnitude above the
largest finite value, 2^128 - 2^104, is the infinity of the sign (`40_arithmetic.md` R100). -/
def Obligations.RoundingIsToNearestEven : Prop :=
  ∀ num den : Nat, 0 < den →
    2 ^ ((roundUnits num den).log2 - 23) ∣ roundUnits num den ∧
    (∀ c : Nat, 2 ^ (c.log2 - 23) ∣ c →
      |(roundUnits num den * den : Int) - num| ≤ |(c * den : Int) - num| ∧
      (c ≠ roundUnits num den → |(roundUnits num den * den : Int) - num| = |(c * den : Int) - num| →
        roundUnits num den / 2 ^ ((roundUnits num den).log2 - 23) % 2 = 0)) ∧
    ∀ neg : Bool, roundF32 neg num den =
      if (2 ^ 128 - 2 ^ 104) * 2 ^ 149 < roundUnits num den then .inf neg else .fin neg (roundUnits num den)

/-- On finite operands, each a sign and a whole number of 2^-149: the sum, product and quotient are the roundings of the exact
ones, with the sign of a zero sum and the exclusive-or sign of products and quotients; `fneg` and `fabs` change the sign
alone; an integer converts to its rounding (`30_encoding.md` R70, `40_arithmetic.md` R100 to R107). -/
def Obligations.FiniteArithmeticRoundsTheExactResult : Prop :=
  (∀ x y : Word, x.extractLsb' 23 8 ≠ 255 → y.extractLsb' 23 8 ≠ 255 →
    let a := F32.ofWord x
    let b := F32.ofWord y
    let differ := x.getLsbD 31 != y.getLsbD 31
    let e := (x.extractLsb' 23 8).toNat
    let f := (x.extractLsb' 0 23).toNat
    a = .fin (x.getLsbD 31) (if e = 0 then f else (2 ^ 23 + f) * 2 ^ (e - 1)) ∧
    (a.real + b.real ≠ 0 → fadd a b = roundF32 (decide (a.real + b.real < 0)) (a.real + b.real).natAbs 1) ∧
    (a.real + b.real = 0 → fadd a b = .fin (decide (x = 0x80000000 ∧ y = 0x80000000)) 0) ∧
    fsub a b = fadd a (.fin (!y.getLsbD 31) b.real.natAbs) ∧
    fmul a b = roundF32 differ (a.real * b.real).natAbs (2 ^ 149) ∧
    (b.real ≠ 0 → fdiv a b = roundF32 differ (a.real.natAbs * 2 ^ 149) b.real.natAbs) ∧
    fneg a = .fin (!x.getLsbD 31) a.real.natAbs ∧ fabs a = .fin false a.real.natAbs) ∧
  ∀ i : Int, i2f i = roundF32 (decide (i < 0)) (i.natAbs * 2 ^ 149) 1

/-- Multiplying by 1.0, or adding a zero of either sign to a non-zero value, gives the value; a finite value less itself is
`+0` (`40_arithmetic.md` R101, R102, R103). -/
def Obligations.NeutralOperandsAreExact : Prop :=
  ∀ w : Word,
    (F32.ofWord w ≠ .nan → fmul (F32.ofWord w) fone = F32.ofWord w) ∧
    ((F32.ofWord w).isFinite = true → (F32.ofWord w).real ≠ 0 → ∀ neg, fadd (F32.ofWord w) (.fin neg 0) = F32.ofWord w) ∧
    ((F32.ofWord w).isFinite = true → fsub (F32.ofWord w) (F32.ofWord w) = fzero)

/-- The special values. A NaN operand gives a NaN; infinities and zeros in sums, differences, products and quotients; and the
comparisons, false on a NaN, exact on finite values, with -inf below and +inf above every one of them (`40_arithmetic.md` R101
to R106). -/
def Obligations.SpecialValueRules : Prop :=
  (∀ v : F32, fadd .nan v = .nan ∧ fadd v .nan = .nan ∧ fsub .nan v = .nan ∧ fsub v .nan = .nan ∧ fmul .nan v = .nan ∧
    fmul v .nan = .nan ∧ fdiv .nan v = .nan ∧ fdiv v .nan = .nan ∧ fneg .nan = .nan ∧ fabs .nan = .nan) ∧
  (∀ a b : Bool, fadd (.inf a) (.inf b) = (if a = b then .inf a else .nan) ∧
    fsub (.inf a) (.inf b) = (if a = b then .nan else .inf a) ∧ fmul (.inf a) (.inf b) = .inf (a != b) ∧
    fdiv (.inf a) (.inf b) = .nan ∧ fneg (.inf a) = .inf (!a) ∧ fabs (.inf a) = .inf false ∧
    fmul (.inf a) (.fin b 0) = .nan ∧ fmul (.fin a 0) (.inf b) = .nan ∧ fdiv (.fin a 0) (.fin b 0) = .nan) ∧
  (∀ (a b : Bool) (u : Nat), fadd (.inf a) (.fin b u) = .inf a ∧ fadd (.fin a u) (.inf b) = .inf b ∧
    fsub (.inf a) (.fin b u) = .inf a ∧ fsub (.fin a u) (.inf b) = .inf (!b) ∧
    fdiv (.inf a) (.fin b u) = .inf (a != b) ∧ fdiv (.fin a u) (.inf b) = .fin (a != b) 0) ∧
  (∀ (a b : Bool) (u : Nat), u ≠ 0 → fmul (.inf a) (.fin b u) = .inf (a != b) ∧ fmul (.fin a u) (.inf b) = .inf (a != b) ∧
    fdiv (.fin a u) (.fin b 0) = .inf (a != b) ∧ fdiv (.fin a 0) (.fin b u) = .fin (a != b) 0) ∧
  (∀ v : F32, flt .nan v = false ∧ flt v .nan = false ∧ fgt .nan v = false ∧ fgt v .nan = false ∧ fle .nan v = false ∧
    fle v .nan = false ∧ fge .nan v = false ∧ fge v .nan = false ∧ feq .nan v = false ∧ feq v .nan = false) ∧
  (∀ (a b : Bool) (u v : Nat),
    let p := F32.fin a u
    let q := F32.fin b v
    flt p q = decide (p.real < q.real) ∧ fgt p q = decide (p.real > q.real) ∧ fle p q = decide (p.real ≤ q.real) ∧
    fge p q = decide (p.real ≥ q.real) ∧ feq p q = decide (p.real = q.real)) ∧
  (∀ (a : Bool) (u : Nat), ∀ x ∈ [F32.fin a u, .inf false], flt (.inf true) x = true ∧ fle (.inf true) x = true ∧
    fgt (.inf true) x = false ∧ fge (.inf true) x = false ∧ feq (.inf true) x = false ∧ fgt x (.inf true) = true ∧
    fge x (.inf true) = true ∧ flt x (.inf true) = false ∧ fle x (.inf true) = false ∧ feq x (.inf true) = false) ∧
  (∀ (a : Bool) (u : Nat), ∀ x ∈ [F32.fin a u, .inf true], flt x (.inf false) = true ∧ fle x (.inf false) = true ∧
    fgt x (.inf false) = false ∧ fge x (.inf false) = false ∧ feq x (.inf false) = false ∧ fgt (.inf false) x = true ∧
    fge (.inf false) x = true ∧ flt (.inf false) x = false ∧ fle (.inf false) x = false ∧ feq (.inf false) x = false) ∧
  ∀ a : Bool, feq (.inf a) (.inf a) = true ∧ fle (.inf a) (.inf a) = true ∧ fge (.inf a) (.inf a) = true ∧
    flt (.inf a) (.inf a) = false ∧ fgt (.inf a) (.inf a) = false

/-- Converting an integer of magnitude at most 2^24 is exact (`40_arithmetic.md` R107). -/
def Obligations.SmallIntegersConvertExactly : Prop :=
  ∀ i : Int, -2 ^ 24 ≤ i → i ≤ 2 ^ 24 → i2f i = .fin (decide (i < 0)) (i.natAbs * 2 ^ 149)

/-- A delivered NaN has `e = 255` and `f ≠ 0` whatever the draw, and every such pattern can be delivered and is read as a NaN;
`e = 255` and `f = 0` is an infinity (`30_encoding.md` R70, `40_arithmetic.md` R108; log entry 3). -/
def Obligations.DeliveredNanIsAnyNanPattern : Prop :=
  (∀ r : Word, (F32.nan.toWord r).extractLsb' 23 8 = 255 ∧ (F32.nan.toWord r).extractLsb' 0 23 ≠ 0) ∧
  ∀ w : Word, w.extractLsb' 23 8 = 255 →
    (w.extractLsb' 0 23 ≠ 0 → F32.nan.toWord w = w ∧ F32.ofWord w = .nan) ∧
    (w.extractLsb' 0 23 = 0 → F32.ofWord w = .inf (w.getLsbD 31))

/-- `mod360(a)` is the unique integer in 0..359 that differs from `a` by a multiple of 360 (`40_arithmetic.md` R115). -/
def Obligations.AngleReductionIsFlooredModulo : Prop :=
  ∀ a : Int, mod360 a ≤ 359 ∧ (360 : Int) ∣ a - mod360 a ∧
    ∀ r : Nat, r ≤ 359 → (360 : Int) ∣ a - r → r = mod360 a

/-- The table; the integer sine of a whole number of degrees by quadrant reflection of it, and the cosine a quarter turn
ahead; both lie in -32767..32767, the sine is odd and the cosine even; as binary32 values they are divided by 32767.0
(`40_arithmetic.md` R116, R117, R118). -/
def Obligations.SineIsOddAndCosineEven : Prop :=
  (List.range 91).map sineEntry =
    [0, 572, 1144, 1715, 2286, 2856, 3425, 3993, 4560, 5126] ++ [5690, 6252, 6813, 7371, 7927, 8481, 9032, 9580, 10126, 10668] ++
    [11207, 11743, 12275, 12803, 13328, 13848, 14364, 14876, 15383, 15886] ++
    [16383, 16876, 17364, 17846, 18323, 18794, 19260, 19720, 20173, 20621] ++
    [21062, 21497, 21925, 22347, 22762, 23170, 23571, 23964, 24351, 24730] ++
    [25101, 25465, 25821, 26169, 26509, 26841, 27165, 27481, 27788, 28087] ++
    [28377, 28659, 28932, 29196, 29451, 29697, 29934, 30162, 30381, 30591] ++
    [30791, 30982, 31163, 31335, 31498, 31650, 31794, 31927, 32051, 32165] ++
    [32269, 32364, 32448, 32523, 32587, 32642, 32687, 32722, 32747, 32762] ++ [32767] ∧
  ∀ a : Int,
    (let r := mod360 a
     isin a =
       if r ≤ 90 then sineEntry r
       else if r ≤ 180 then sineEntry (180 - r)
       else if r ≤ 270 then -sineEntry (r - 180)
       else -sineEntry (360 - r)) ∧
    isin (-a) = -isin a ∧ icos (-a) = icos a ∧ icos a = isin ((mod360 a : Int) + 90) ∧ icos a = isin (a + 90) ∧
    -32767 ≤ isin a ∧ isin a ≤ 32767 ∧ -32767 ≤ icos a ∧ icos a ≤ 32767 ∧
    fsin a = fdiv (i2f (isin a)) (F32.ofWord 0x46FFFE00) ∧ fcos a = fdiv (i2f (icos a)) (F32.ofWord 0x46FFFE00)

/-! ### Matrix algebra commands -/

/-- MIDENT sets `MAT` to the identity and reports success (`41_matrix_algebra.md` R133). -/
def Obligations.MidentSetsIdentity : Prop :=
  encode .mident = 0x00000001 ∧ ∀ s : State, ∃ t, exec .mident s = .next t ∧
    t.mat = ⟨0x3F800000, 0, 0, 0, 0x3F800000, 0, 0, 0, 0x3F800000⟩ ∧ CompletedWith s t true 0 ∧ OnlyMatrixWritten s t

/-- MMUL replaces `MAT` by its product with `OPM`, each element summed from the left from the old values
(`41_matrix_algebra.md` R131, R134). -/
def Obligations.MmulResult : Prop :=
  encode .mmul = 0x00000002 ∧ ∀ s : State, ∃ t, exec .mmul s = .next t ∧ (∀ r c, t.matAt r c = s.productAt s.opmAt r c) ∧
    CompletedWith s t true 0 ∧ OnlyMatrixWritten s t

/-- MTRANS composes a translation by (`OPA`, `OPB`) (`41_matrix_algebra.md` R135; the layout is the spec's own, D13). -/
def Obligations.MtransResult : Prop :=
  encode .mtrans = 0x00000003 ∧ ∀ s : State, ∃ t, exec .mtrans s = .next t ∧
    (∀ r c, t.matAt r c = s.productAt
      (rowsAt (fone, fzero, F32.ofWord s.opa) (fzero, fone, F32.ofWord s.opb) (fzero, fzero, fone)) r c) ∧
    CompletedWith s t true 0 ∧ OnlyMatrixWritten s t

/-- MSCALE composes a scaling by (`OPA`, `OPB`) (`41_matrix_algebra.md` R136; the layout is the spec's own, D13). -/
def Obligations.MscaleResult : Prop :=
  encode .mscale = 0x00000004 ∧ ∀ s : State, ∃ t, exec .mscale s = .next t ∧
    (∀ r c, t.matAt r c = s.productAt
      (rowsAt (F32.ofWord s.opa, fzero, fzero) (fzero, F32.ofWord s.opb, fzero) (fzero, fzero, fone)) r c) ∧
    CompletedWith s t true 0 ∧ OnlyMatrixWritten s t

/-- MROT composes a rotation by `DEG` whole degrees, whose sine and cosine are the integer ones divided by 32767.0
(`41_matrix_algebra.md` R137, `40_arithmetic.md` R117; the layout is the spec's own, D13). -/
def Obligations.MrotResult : Prop :=
  encode .mrot = 0x00000005 ∧ ∀ s : State, ∃ t, exec .mrot s = .next t ∧
    (let sine := fdiv (i2f (isin s.deg.toInt)) (F32.ofWord 0x46FFFE00)
     let cosine := fdiv (i2f (icos s.deg.toInt)) (F32.ofWord 0x46FFFE00)
     ∀ r c, t.matAt r c = s.productAt
       (rowsAt (cosine, fneg sine, fzero) (sine, cosine, fzero) (fzero, fzero, fone)) r c) ∧
    CompletedWith s t true 0 ∧ OnlyMatrixWritten s t

/-- MPERSP composes a perspective by (`OPA`, `OPB`) (`41_matrix_algebra.md` R138; the layout is the spec's own, D13). -/
def Obligations.MperspResult : Prop :=
  encode .mpersp = 0x00000006 ∧ ∀ s : State, ∃ t, exec .mpersp s = .next t ∧
    (∀ r c, t.matAt r c = s.productAt
      (rowsAt (fone, fzero, fzero) (fzero, fone, fzero) (F32.ofWord s.opa, F32.ofWord s.opb, fone)) r c) ∧
    CompletedWith s t true 0 ∧ OnlyMatrixWritten s t

/-- MINV replaces `MAT` by the adjugate divided, element by element, by the determinant (`41_matrix_algebra.md` R139). -/
def Obligations.MinvResult : Prop :=
  encode .minv = 0x00000007 ∧ ∀ s : State, ∃ t, exec .minv s = .next t ∧
    (let m := s.matAt
     let n := rowsAt
       (fsub (fmul (m 1 1) (m 2 2)) (fmul (m 1 2) (m 2 1)), fsub (fmul (m 0 2) (m 2 1)) (fmul (m 0 1) (m 2 2)),
         fsub (fmul (m 0 1) (m 1 2)) (fmul (m 0 2) (m 1 1)))
       (fsub (fmul (m 1 2) (m 2 0)) (fmul (m 1 0) (m 2 2)), fsub (fmul (m 0 0) (m 2 2)) (fmul (m 0 2) (m 2 0)),
         fsub (fmul (m 0 2) (m 1 0)) (fmul (m 0 0) (m 1 2)))
       (fsub (fmul (m 1 0) (m 2 1)) (fmul (m 1 1) (m 2 0)), fsub (fmul (m 0 1) (m 2 0)) (fmul (m 0 0) (m 2 1)),
         fsub (fmul (m 0 0) (m 1 1)) (fmul (m 0 1) (m 1 0)))
     let det := fadd (fadd (fmul (m 0 0) (n 0 0)) (fmul (m 0 1) (n 1 0))) (fmul (m 0 2) (n 2 0))
     ∀ r c, t.matAt r c = fdiv (n r c) det) ∧
    CompletedWith s t true 0 ∧ OnlyMatrixWritten s t

/-- MINV fails silently: with a NaN anywhere in `MAT` all nine results are NaN, with a zero determinant none is finite, and
the outcome is success all the same (`41_matrix_algebra.md` R139, `60_exceptions.md` R214). -/
def Obligations.MinvFailsSilently : Prop :=
  ∀ s t : State, exec .minv s = .next t →
    ((∃ r c, s.matAt r c = .nan) → ∀ r c, t.matAt r c = .nan) ∧
    ((∃ neg, determinant s.matrix = .fin neg 0) → ∀ r c, (t.matAt r c).isFinite = false) ∧
    t.ok = true ∧ t.rc = 0

/-- MCHKINV reports success for every content of `MAT` and changes no register (`41_matrix_algebra.md` R140). -/
def Obligations.MchkinvAlwaysTrue : Prop :=
  encode .mchkinv = 0x00000008 ∧ ∀ s : State, ∃ t, exec .mchkinv s = .next t ∧
    CompletedWith s t true 0 ∧ OnlyMatrixWritten s t ∧ t.mat = s.mat

/-- A product with the identity, on either side, leaves a matrix of finite elements unchanged in value, and in its bits but
for a `-0.0` that may become `+0.0` (`41_matrix_algebra.md` R141, which the spec marks as derived from R134). -/
def Obligations.IdentityProductKeepsFiniteMatrix : Prop :=
  ∀ (s t : State) (m : Mat3 Word), (∀ k, (F32.ofWord (m.get k)).isFinite = true) →
    (s.mat = m ∧ s.opm = ⟨0x3F800000, 0, 0, 0, 0x3F800000, 0, 0, 0, 0x3F800000⟩) ∨
      (s.mat = ⟨0x3F800000, 0, 0, 0, 0x3F800000, 0, 0, 0, 0x3F800000⟩ ∧ s.opm = m) →
    exec .mmul s = .next t →
      ∀ k, feq (F32.ofWord (t.mat.get k)) (F32.ofWord (m.get k)) = true ∧
        (t.mat.get k = m.get k ∨ (m.get k = 0x80000000 ∧ t.mat.get k = 0))

/-! ### The solver -/

/-- The pivot search finds the first row, from row `k` on, whose magnitude in column `k` no other exceeds
(`42_transform_solver.md` R152). -/
def Obligations.PivotIsFirstLargest : Prop :=
  ∀ (a : Augmented) (k : Nat), k ≤ 7 →
    k ≤ (findPivot a k).1 ∧ (findPivot a k).1 ≤ 7 ∧ (findPivot a k).2 = fabs (a.entry (findPivot a k).1 k) ∧
    (∀ r, k ≤ r → r ≤ 7 → fgt (fabs (a.entry r k)) (findPivot a k).2 = false) ∧
    (∀ r, k ≤ r → r < (findPivot a k).1 → fge (fabs (a.entry r k)) (findPivot a k).2 = false)

/-- The elimination is the eight steps k = 0 to 7 in order, stopping at the first that fails. One step on an 8×9 system fails
exactly when the pivot's magnitude is below `EPS` = 2^-23; otherwise rows `k` and `p` are exchanged, each row below `k` is
reduced in columns `k` to 8, and the system stays 8×9 (`42_transform_solver.md` R152, R154). -/
def Obligations.EliminationStepFollowsRule : Prop :=
  (∀ a : Augmented, eliminate a =
    (((((((eliminateStep a 0).bind fun a => eliminateStep a 1).bind fun a => eliminateStep a 2).bind
      fun a => eliminateStep a 3).bind fun a => eliminateStep a 4).bind fun a => eliminateStep a 5).bind
      fun a => eliminateStep a 6).bind fun a => eliminateStep a 7) ∧
  ∀ (a : Augmented) (k : Nat), k ≤ 7 → a.length = 8 → (∀ row ∈ a, row.length = 9) →
    (flt (findPivot a k).2 (F32.ofWord 0x34000000) = true → eliminateStep a k = none) ∧
    (flt (findPivot a k).2 (F32.ofWord 0x34000000) = false → ∃ b, eliminateStep a k = some b ∧
      b.length = 8 ∧ (∀ row ∈ b, row.length = 9) ∧
      let old := fun r c => a.entry (if r = k then (findPivot a k).1 else if r = (findPivot a k).1 then k else r) c
      ∀ r c, r ≤ 7 → c ≤ 8 →
        b.entry r c =
          if k < r ∧ k ≤ c then fsub (old r c) (fmul (fdiv (old r k) (old k k)) (old k c)) else old r c)

/-- MSOLVE: the system is two rows of nine for each point pair; when the elimination fails `MAT` is untouched, `OK` is clear
and `RC` is -1; when it leaves the system `a`, the unknowns written to `MAT` satisfy the back substitution on `a`, `MAT[8]`
is 1.0 and the outcome is success (`42_transform_solver.md` R151, R153, R154; the system's form is the spec's own, D18). -/
def Obligations.MsolveResult : Prop :=
  encode .msolve = 0x00000009 ∧ ∀ s : State, ∃ t, exec .msolve s = .next t ∧ OnlyMatrixWritten s t ∧
    (assemble s.sourcePoints s.destPoints).length = 8 ∧
    (∀ i : Fin 4,
      let p := s.sourcePoints.get i
      let q := s.destPoints.get i
      (assemble s.sourcePoints s.destPoints).getD (2 * i.val) [] =
        [p.x, p.y, fone, fzero, fzero, fzero, fneg (fmul p.x q.x), fneg (fmul p.y q.x), q.x] ∧
      (assemble s.sourcePoints s.destPoints).getD (2 * i.val + 1) [] =
        [fzero, fzero, fzero, p.x, p.y, fone, fneg (fmul p.x q.y), fneg (fmul p.y q.y), q.y]) ∧
    (eliminate (assemble s.sourcePoints s.destPoints) = none → CompletedWith s t false (-1) ∧ t.mat = s.mat) ∧
    (∀ a, eliminate (assemble s.sourcePoints s.destPoints) = some a →
      CompletedWith s t true 0 ∧ t.mat.get 8 = 0x3F800000 ∧
      ∀ k : Fin 8, F32.ofWord (t.mat.get ⟨k.val, by omega⟩) =
        fdiv ((List.finRange 8).foldl
            (fun acc c => if k < c then fsub acc (fmul (a.entry k c) (F32.ofWord (t.mat.get ⟨c.val, by omega⟩))) else acc)
            (a.entry k 8))
          (a.entry k k))

/-- The source points (0,0), (1,1), (2,2), (3,3) fail, whatever the destination points (`42_transform_solver.md` R154,
R158 b). -/
def Obligations.PointsZeroToThreeOnTheDiagonalFail : Prop :=
  ∀ s : State, s.srcpt = ⟨⟨0, 0⟩, ⟨0x3F800000, 0x3F800000⟩, ⟨0x40000000, 0x40000000⟩, ⟨0x40400000, 0x40400000⟩⟩ →
    ∃ t, exec .msolve s = .next t ∧ CompletedWith s t false (-1) ∧ t.mat = s.mat

/-! ### The codec -/

/-- QENC writes, for each finite element, the low 32 bits of the element times 65536 truncated toward zero, and sets `QOVF`
exactly when some element is non-finite or its integer does not fit; it always succeeds (`43_fixed_point_codec.md` R160,
R161, R163). -/
def Obligations.QencResult : Prop :=
  encode .qenc = 0x00000010 ∧ ∀ s : State, ∃ t, exec .qenc s = .next t ∧
    (let v := fun k => F32.ofWord (s.mat.get k)
     let q := fun k => Int.tdiv ((v k).real * 65536) (2 ^ 149)
     (∀ k, (v k).isFinite = true → t.comp.get k = BitVec.ofInt 32 (q k)) ∧
     (t.qovf = true ↔ s.qovf = true ∨ ∃ k, (v k).isFinite = false ∨ q k < -2 ^ 31 ∨ 2 ^ 31 - 1 < q k)) ∧
    CompletedWith s t true 0 ∧ KeepsOperands s t ∧ t.ill = s.ill ∧ t.mat = s.mat ∧ t.recto = s.recto

/-- An element is out of range exactly from 32768.0 up and from the binary32 value next below -32768.0 down
(`43_fixed_point_codec.md` R163). -/
def Obligations.QencRangeInBinary32 : Prop :=
  ∀ w : Word, overflowsQ16 (F32.ofWord w) = true ↔
    (F32.ofWord w).isFinite = false ∨ fge (F32.ofWord w) (F32.ofWord 0x47000000) = true ∨
      fle (F32.ofWord w) (F32.ofWord 0xC7000001) = true

/-- A finite element of magnitude at least 2^39 encodes as 0 (`43_fixed_point_codec.md` R161). -/
def Obligations.QencHugeElementsWrapToZero : Prop :=
  ∀ w draw : Word, (F32.ofWord w).isFinite = true → 2 ^ 39 * 2 ^ 149 ≤ |(F32.ofWord w).real| →
    q16Word draw (F32.ofWord w) = 0

/-! ### The area/clip projector -/

/-- AREA: the corners with wrapping far coordinates, their projection, and the outcome by the tests in their fixed order, on
exact rationals (`44_area_clip_projector.md` R170 to R178). -/
def Obligations.AreaResult : Prop :=
  encode .area = 0x00000020 ∧ ∀ s : State, ∃ t, exec .area s = .next t ∧ OnlyRectWritten s t ∧
    (let cx : Fin 4 → Word := fun j => if j = 1 ∨ j = 2 then s.recta.q0 + s.recta.q2 - 1 else s.recta.q0
     let cy : Fin 4 → Word := fun j => if j = 2 ∨ j = 3 then s.recta.q1 + s.recta.q3 - 1 else s.recta.q1
     let row : Fin 3 → Fin 4 → F32 := fun r j =>
       fadd (fadd (fmul (s.matAt r 0) (i2f (cx j).toInt)) (fmul (s.matAt r 1) (i2f (cy j).toInt))) (s.matAt r 2)
     let px : Fin 4 → F32 := fun j => fdiv (row 0 j) (row 2 j)
     let py : Fin 4 → F32 := fun j => fdiv (row 1 j) (row 2 j)
     let x : Fin 4 → ℚ := fun j => (px j).real / 2 ^ 149
     let y : Fin 4 → ℚ := fun j => (py j).real / 2 ^ 149
     let xmin := min (min (x 0) (x 1)) (min (x 2) (x 3))
     let xmax := max (max (x 0) (x 1)) (max (x 2) (x 3))
     let ymin := min (min (y 0) (y 1)) (min (y 2) (y 3))
     let ymax := max (max (y 0) (y 1)) (max (y 2) (y 3))
     let W := s.bufw.toInt
     let H := s.bufh.toInt
     let ox := max 0 (min ⌊xmin⌋ (W - 1))
     let oy := max 0 (min ⌊ymin⌋ (H - 1))
     let ow := min (⌈xmax⌉ - ox + 1) (W - ox)
     let oh := min (⌈ymax⌉ - oy + 1) (H - oy)
     if ∃ j, (px j).isFinite = false ∨ (py j).isFinite = false then CompletedWith s t false 2 ∧ t.recto = ⟨0, 0, 0, 0⟩
     else if xmax < 0 ∨ ymax < 0 ∨ (W : ℚ) ≤ xmin ∨ (H : ℚ) ≤ ymin then CompletedWith s t false 1 ∧ t.recto = ⟨0, 0, 0, 0⟩
     else if ow ≤ 0 ∨ oh ≤ 0 then CompletedWith s t false 3 ∧ t.recto = ⟨0, 0, 0, 0⟩
     else CompletedWith s t true 0 ∧
       t.recto = ⟨BitVec.ofInt 32 ox, BitVec.ofInt 32 oy, BitVec.ofInt 32 ow, BitVec.ofInt 32 oh⟩)

/-- The clamp invariant of AREA: on success the rectangle is not empty and lies on the canvas, written without wrapping, and
on failure it is zero (`44_area_clip_projector.md` R179, which the spec marks as derived from R175 to R178). -/
def Obligations.AreaResultStaysOnCanvas : Prop :=
  ∀ s t : State, exec .area s = .next t →
    (t.ok = true → 1 ≤ s.bufw.toInt ∧ 1 ≤ s.bufh.toInt ∧
      0 ≤ t.recto.q0.toInt ∧ t.recto.q0.toInt ≤ s.bufw.toInt - 1 ∧
      0 ≤ t.recto.q1.toInt ∧ t.recto.q1.toInt ≤ s.bufh.toInt - 1 ∧
      1 ≤ t.recto.q2.toInt ∧ t.recto.q2.toInt ≤ s.bufw.toInt - t.recto.q0.toInt ∧
      1 ≤ t.recto.q3.toInt ∧ t.recto.q3.toInt ≤ s.bufh.toInt - t.recto.q1.toInt) ∧
    (t.ok = false → t.recto = ⟨0, 0, 0, 0⟩)

/-- A canvas without pixels makes AREA fail, and the degenerate failure occurs on no other (`44_area_clip_projector.md`
R178, R181). -/
def Obligations.AreaNeedsACanvas : Prop :=
  ∀ s t : State, exec .area s = .next t →
    (s.bufw.toInt ≤ 0 ∨ s.bufh.toInt ≤ 0 → t.ok = false) ∧
    (1 ≤ s.bufw.toInt → 1 ≤ s.bufh.toInt → t.rc ≠ 3)

/-- On success the rectangle covers every projected corner as far as the canvas reaches: it starts at or left of each
non-negative coordinate and ends at or right of it, or at the canvas's edge (`44_area_clip_projector.md` R176, R177). -/
def Obligations.AreaCoversProjectedCorners : Prop :=
  ∀ s t : State, exec .area s = .next t → t.ok = true →
    let p := projectAll s.matrix (extentOf s.recta)
    ∀ j : Fin 4,
      (0 ≤ (p.get j).x.real → t.recto.q0.toInt * 2 ^ 149 ≤ (p.get j).x.real) ∧
      ((p.get j).x.real ≤ (t.recto.q0.toInt + t.recto.q2.toInt - 1) * 2 ^ 149 ∨
        t.recto.q0.toInt + t.recto.q2.toInt = s.bufw.toInt) ∧
      (0 ≤ (p.get j).y.real → t.recto.q1.toInt * 2 ^ 149 ≤ (p.get j).y.real) ∧
      ((p.get j).y.real ≤ (t.recto.q1.toInt + t.recto.q3.toInt - 1) * 2 ^ 149 ∨
        t.recto.q1.toInt + t.recto.q3.toInt = s.bufh.toInt)

/-- RISECT gives the intersection of the two inclusive rectangles: it succeeds exactly when they share a pixel, and its
result then holds exactly the shared pixels (`44_area_clip_projector.md` R185). -/
def Obligations.RisectResult : Prop :=
  encode .risect = 0x00000021 ∧ ∀ s : State, ∃ t, exec .risect s = .next t ∧ OnlyRectWritten s t ∧
    (let inside := fun (q : Quad Word) (x y : Int) =>
       q.q0.toInt ≤ x ∧ x ≤ q.q2.toInt ∧ q.q1.toInt ≤ y ∧ y ≤ q.q3.toInt
     ((∃ x y, inside s.recta x y ∧ inside s.rectb x y) → CompletedWith s t true 0 ∧
       ∀ x y, inside t.recto x y ↔ inside s.recta x y ∧ inside s.rectb x y) ∧
     ((¬∃ x y, inside s.recta x y ∧ inside s.rectb x y) → CompletedWith s t false 1 ∧ t.recto = ⟨0, 0, 0, 0⟩))
end

