-- ==== Sys2Proof/Laws/Access.lean ====
section
/-! SUPPORT. What one host access can do, said once: the admitted offsets, and the answer of a read and of a write by kind of
register. -/

namespace Sys2Proof.Machine

theorem base_mod_four : Config.base % 4 = 0 := by
  unfold Config.base
  omega

/-- A read inside the block, 32 bits wide and aligned, reaches the register at its offset. -/
theorem hostAccess_read (s : State) {off : Nat} (h : off < 0x200) (h4 : off % 4 = 0) :
    s.hostAccess (.read (Config.base + off) 4) = .next (s.hostRead off) := by
  have hb := base_mod_four
  simp [State.hostAccess, Access.inBlock, Access.wordWide, Access.aligned, Access.addr, Access.bytes, h,
    show (Config.base + off) % 4 = 0 by omega]

/-- A write inside the block, 32 bits wide and aligned, reaches the register at its offset. -/
theorem hostAccess_write (s : State) {off : Nat} (v : Word) (h : off < 0x200) (h4 : off % 4 = 0) :
    s.hostAccess (.write (Config.base + off) 4 v) = s.hostWrite off v := by
  have hb := base_mod_four
  simp [State.hostAccess, Access.inBlock, Access.wordWide, Access.aligned, Access.addr, Access.bytes, h,
    show (Config.base + off) % 4 = 0 by omega]

/-- An access that answers a next state was admitted, and it was a read or a write of one offset of the block. -/
theorem hostAccess_next {s t : State} {a : Access} (h : s.hostAccess a = .next t) :
    (∃ off, off < 0x200 ∧ off % 4 = 0 ∧ a = .read (Config.base + off) 4 ∧ t = s.hostRead off) ∨
    (∃ off v, off < 0x200 ∧ off % 4 = 0 ∧ a = .write (Config.base + off) 4 v ∧ s.hostWrite off v = .next t) := by
  have hb := base_mod_four
  unfold State.hostAccess at h
  split at h
  · cases h
  · split at h
    · cases h
    · split at h
      · cases h
      · rename_i h1 h2 h3
        rw [Bool.not_eq_true, Bool.not_eq_false'] at h1 h2 h3
        simp only [Access.inBlock, Access.wordWide, Access.aligned, Bool.and_eq_true, decide_eq_true_eq, beq_iff_eq] at h1 h2 h3
        cases a with
        | read addr n =>
          simp only [Access.addr, Access.bytes] at h1 h2 h3
          refine .inl ⟨addr - Config.base, by omega, by omega, ?_, ?_⟩
          · rw [h2, show Config.base + (addr - Config.base) = addr by omega]
          · cases h; rfl
        | write addr n v =>
          simp only [Access.addr, Access.bytes] at h1 h2 h3
          refine .inr ⟨addr - Config.base, v, by omega, by omega, ?_, h⟩
          rw [h2, show Config.base + (addr - Config.base) = addr by omega]

/-- A read changes only the answer on the bus and the number of draws. -/
theorem hostRead_eq (s : State) (off : Nat) :
    ∃ w n, s.hostRead off = { s with response := some (.data w), draws := n } := by
  unfold State.hostRead
  split
  · exact ⟨_, _, rfl⟩
  · split <;> exact ⟨_, _, rfl⟩

/-- A write that answers a next state: it changed nothing but the answer, or one of `STATUS`, `CTRL`, or, while Idle,
accepted a command or stored into one data register. -/
theorem hostWrite_next {s t : State} {off : Nat} {v : Word} (h : s.hostWrite off v = .next t) :
    t = { s with response := some .written } ∨
    t = { s with status := statusAfterWrite s.status v, response := some .written } ∨
    t = { s with ctrl := ctrlAfterWrite v, response := some .written } ∨
    (s.busy = false ∧ t = { s.accept v with response := some .written }) ∨
    (s.busy = false ∧ ∃ r, regAt off = some r ∧ r.writeKind = .data ∧
      t = { s.writeData r v with response := some .written }) := by
  unfold State.hostWrite at h
  split at h
  · cases h; exact .inl rfl
  · rename_i r hr
    split at h
    · cases h; exact .inr (.inl rfl)
    · cases h; exact .inr (.inr (.inl rfl))
    · cases h; exact .inl rfl
    · split at h
      · cases h
      · rename_i hb
        cases h; exact .inr (.inr (.inr (.inl ⟨by simpa using hb, rfl⟩)))
    · rename_i hk
      split at h
      · cases h
      · rename_i hb
        cases h; exact .inr (.inr (.inr (.inr ⟨by simpa using hb, r, hr, hk, rfl⟩)))

end Sys2Proof.Machine
end

