-- ==== Sys2Proof/Laws/Commands.lean ====
section
/-! SUPPORT. What each meaning and the step can do, said once: the forms from which invariants and frames are derived. -/

namespace Sys2Proof.Machine

/-- The forms a completing command's next state takes: `MAT` written and success, only the outcome recorded, `COMP`
written, or `RECTO` written. -/
inductive CommandEffect (s : State) : State → Prop
  /-- MIDENT. -/
  | matWords (m : Mat3 Word) : CommandEffect s { s with mat := m }.succeed
  /-- The composing commands, MINV, and MSOLVE on success. -/
  | matValues (m : Mat3 F32) : CommandEffect s (s.writeMatrix m).succeed
  /-- MCHKINV. -/
  | nothing : CommandEffect s s.succeed
  /-- MSOLVE on failure. -/
  | solveFailed : CommandEffect s (s.fail solveFail)
  /-- QENC. -/
  | compWords (m : Mat3 Word) (q : Bool) :
    CommandEffect s ({ s with comp := m, draws := s.draws + 9 }.finish true 0 false q)
  /-- AREA and RISECT on success. -/
  | rect (a b c d : Int) : CommandEffect s (s.writeRectO a b c d).succeed
  /-- AREA and RISECT on failure. -/
  | rectFailed (code : Int) (h : code = noOverlapCode ∨ code = nonFiniteCode ∨ code = degenerateCode) :
    CommandEffect s ((s.writeRectO 0 0 0 0).fail code)

/-! ### The next state of each command -/

theorem exec_mident (s : State) : exec .mident s = .next { s with mat := identityWords }.succeed := rfl

theorem exec_mmul (s : State) : exec .mmul s = .next (s.composeWith s.multiplier) := rfl

theorem exec_mtrans (s : State) : exec .mtrans s = .next (s.composeWith (translation s.scalarA s.scalarB)) := rfl

theorem exec_mscale (s : State) : exec .mscale s = .next (s.composeWith (scaling s.scalarA s.scalarB)) := rfl

theorem exec_mrot (s : State) : exec .mrot s = .next (s.composeWith (rotation s.degrees)) := rfl

theorem exec_mpersp (s : State) : exec .mpersp s = .next (s.composeWith (perspective s.scalarA s.scalarB)) := rfl

theorem exec_minv (s : State) : exec .minv s = .next (s.writeMatrix (inverse s.matrix)).succeed := rfl

theorem exec_mchkinv (s : State) : exec .mchkinv s = .next s.succeed := rfl

theorem exec_qenc (s : State) :
    exec .qenc s =
      .next ({ s with comp := q16Words s.draws s.matrix, draws := s.draws + 9 }.finish true 0 false (s.matrix.any overflowsQ16)) := by
  change execQenc s = _
  rw [execQenc]

theorem exec_area (s : State) :
    exec .area s =
      .next (s.publishRect (areaOf (projectAll s.matrix (extentOf s.recta)) s.canvasWidth s.canvasHeight)) := by
  change execArea s = _
  rw [execArea]

theorem exec_risect (s : State) :
    exec .risect s =
      .next (s.publishRect (intersect (sidesOf s.recta) (sidesOf s.rectb))) := by
  change execRisect s = _
  rw [execRisect]

theorem exec_msolve_some {s : State} {m : Mat3 F32} (h : solveTransform s.sourcePoints s.destPoints = some m) :
    exec .msolve s = .next (s.writeMatrix m).succeed := by
  unfold exec execMsolve
  generalize solveTransform s.sourcePoints s.destPoints = r at h
  subst h
  rfl

theorem exec_msolve_none {s : State} (h : solveTransform s.sourcePoints s.destPoints = none) :
    exec .msolve s = .next (s.fail solveFail) := by
  unfold exec execMsolve
  generalize solveTransform s.sourcePoints s.destPoints = r at h
  subst h
  rfl

theorem areaOf_code {p : Quad (Point F32)} {w h code : Int} (hc : areaOf p w h = .failure code) :
    code = noOverlapCode ∨ code = nonFiniteCode ∨ code = degenerateCode := by
  unfold areaOf clipBox at hc
  split at hc
  · cases hc; exact .inr (.inl rfl)
  · split at hc
    · cases hc; exact .inl rfl
    · split at hc
      · cases hc; exact .inr (.inr rfl)
      · cases hc

theorem intersect_code {a b : Sides} {code : Int} (hc : intersect a b = .failure code) : code = noOverlapCode := by
  unfold intersect at hc
  split at hc
  · cases hc
  · cases hc; rfl

/-- Every meaning that answers a next state has one of the forms. -/
theorem exec_effect {i : Instr} {s t : State} (h : exec i s = .next t) : CommandEffect s t := by
  cases i with
  | mident => cases h; exact .matWords _
  | mmul => cases h; exact .matValues _
  | mtrans => cases h; exact .matValues _
  | mscale => cases h; exact .matValues _
  | mrot => cases h; exact .matValues _
  | mpersp => cases h; exact .matValues _
  | minv => cases h; exact .matValues _
  | mchkinv => cases h; exact .nothing
  | msolve =>
    replace h : execMsolve s = .next t := h
    unfold execMsolve at h
    generalize solveTransform s.sourcePoints s.destPoints = r at h
    cases r with
    | none => cases h; exact .solveFailed
    | some m => cases h; exact .matValues m
  | qenc => cases h; exact .compWords _ _
  | area =>
    simp only [exec, execArea] at h
    cases h
    generalize hr : areaOf _ _ _ = r
    cases r with
    | rect => exact .rect ..
    | failure code => exact .rectFailed code (areaOf_code hr)
  | risect =>
    simp only [exec, execRisect] at h
    cases h
    generalize hr : intersect _ _ = r
    cases r with
    | rect => exact .rect ..
    | failure code => exact .rectFailed code (.inl (intersect_code hr))

/-- A completion that answers a next state: the latched word's command, or the illegal completion. -/
theorem completeLatched_next {s t : State} (h : s.completeLatched = .next t) :
    ∃ w, s.latched = some w ∧
      ((∃ i, decode w = .command i ∧ exec i s = .next t) ∨ (∃ why, decode w = .illegal why ∧ t = s.completeIllegal)) := by
  unfold State.completeLatched at h
  split at h
  · cases h
  · rename_i w hw
    refine ⟨w, hw, ?_⟩
    split at h
    · rename_i i hi
      exact .inl ⟨i, hi, h⟩
    · rename_i why hi
      cases h
      exact .inr ⟨why, hi, rfl⟩

/-- The block's turn that answers a next state: no change while Idle, a completion while Running. -/
theorem blockTurn_next {s t : State} (h : s.blockTurn = .next t) :
    (s.busy = false ∧ t = s) ∨ (s.busy = true ∧ s.completeLatched = .next t) := by
  unfold State.blockTurn at h
  split at h
  · rename_i hb
    exact .inr ⟨hb, h⟩
  · rename_i hb
    cases h
    exact .inl ⟨by simpa using hb, rfl⟩

/-- A step that answers a next state: the block's turn, an access, or a reset. -/
theorem advance_next {s t : State} (h : s.advance = .next t) :
    (s.schedule = [] ∧ s.blockTurn = .next t) ∨
    (∃ es, s.schedule = .completion :: es ∧ { s with schedule := es }.blockTurn = .next t) ∨
    (∃ a es, s.schedule = .access a :: es ∧ { s with schedule := es }.hostAccess a = .next t) ∨
    (∃ es, s.schedule = .reset :: es ∧ t = { s with schedule := es }.afterReset) := by
  unfold State.advance at h
  split at h
  · rename_i hs
    exact .inl ⟨hs, h⟩
  · rename_i es hs
    exact .inr (.inl ⟨es, hs, h⟩)
  · rename_i a es hs
    exact .inr (.inr (.inl ⟨a, es, hs, h⟩))
  · rename_i es hs
    cases h
    exact .inr (.inr (.inr ⟨es, hs, rfl⟩))

end Sys2Proof.Machine
end

