-- ==== Sys2Proof/Laws/Flags.lean ====
section
/-! SUPPORT. The fields of the `STATUS` and `CTRL` words, and what each flag rule does to each field. -/

namespace Sys2Proof.Machine

variable (b d o i q : Bool)

@[simp] theorem busyBit_statusWord : busyBit (statusWord b d o i q) = b := by revert b d o i q; decide

@[simp] theorem doneBit_statusWord : doneBit (statusWord b d o i q) = d := by revert b d o i q; decide

@[simp] theorem okBit_statusWord : okBit (statusWord b d o i q) = o := by revert b d o i q; decide

@[simp] theorem illBit_statusWord : illBit (statusWord b d o i q) = i := by revert b d o i q; decide

@[simp] theorem qovfBit_statusWord : qovfBit (statusWord b d o i q) = q := by revert b d o i q; decide

/-- Bits 31:5 of a `STATUS` word are zero. -/
@[simp] theorem statusWord_reserved : (statusWord b d o i q).extractLsb' 5 27 = 0 := by revert b d o i q; decide

@[simp] theorem ieBit_ctrlWord : ieBit (ctrlWord b) = b := by revert b; decide

/-- Bits 31:1 of a `CTRL` word are zero. -/
@[simp] theorem ctrlWord_reserved : (ctrlWord b).extractLsb' 1 31 = 0 := by revert b; decide

variable (s v : Word)

/-! ### Acceptance -/

@[simp] theorem busyBit_accept : busyBit (statusAfterAccept s) = true := busyBit_statusWord ..

@[simp] theorem doneBit_accept : doneBit (statusAfterAccept s) = false := doneBit_statusWord ..

@[simp] theorem okBit_accept : okBit (statusAfterAccept s) = false := okBit_statusWord ..

@[simp] theorem illBit_accept : illBit (statusAfterAccept s) = illBit s := illBit_statusWord ..

@[simp] theorem qovfBit_accept : qovfBit (statusAfterAccept s) = qovfBit s := qovfBit_statusWord ..

@[simp] theorem accept_reserved : (statusAfterAccept s).extractLsb' 5 27 = 0 := statusWord_reserved ..

/-! ### Completion -/

@[simp] theorem busyBit_completion : busyBit (statusAfterCompletion s o i q) = false := busyBit_statusWord ..

@[simp] theorem doneBit_completion : doneBit (statusAfterCompletion s o i q) = true := doneBit_statusWord ..

@[simp] theorem okBit_completion : okBit (statusAfterCompletion s o i q) = o := okBit_statusWord ..

@[simp] theorem illBit_completion : illBit (statusAfterCompletion s o i q) = (illBit s || i) := illBit_statusWord ..

@[simp] theorem qovfBit_completion : qovfBit (statusAfterCompletion s o i q) = (qovfBit s || q) := qovfBit_statusWord ..

@[simp] theorem completion_reserved : (statusAfterCompletion s o i q).extractLsb' 5 27 = 0 := statusWord_reserved ..

/-! ### A host write to `STATUS` -/

@[simp] theorem busyBit_write : busyBit (statusAfterWrite s v) = busyBit s := busyBit_statusWord ..

@[simp] theorem doneBit_write : doneBit (statusAfterWrite s v) = (doneBit s && !doneBit v) := doneBit_statusWord ..

@[simp] theorem okBit_write : okBit (statusAfterWrite s v) = okBit s := okBit_statusWord ..

@[simp] theorem illBit_write : illBit (statusAfterWrite s v) = (illBit s && !illBit v) := illBit_statusWord ..

@[simp] theorem qovfBit_write : qovfBit (statusAfterWrite s v) = (qovfBit s && !qovfBit v) := qovfBit_statusWord ..

@[simp] theorem write_reserved : (statusAfterWrite s v).extractLsb' 5 27 = 0 := statusWord_reserved ..

@[simp] theorem ieBit_write : ieBit (ctrlAfterWrite v) = ieBit v := ieBit_ctrlWord ..

@[simp] theorem ctrlAfterWrite_reserved : (ctrlAfterWrite v).extractLsb' 1 31 = 0 := ctrlWord_reserved ..

/-! ### Words whose reserved bits are zero -/

/-- The bits above the fields, when the reserved bits are zero. -/
theorem getLsbD_of_reserved {w : Word} (h : w.extractLsb' 5 27 = 0) {k : Nat} (h1 : 5 ≤ k) : w.getLsbD k = false := by
  by_cases h2 : k < 32
  · have hk := congrArg (fun x => x.getLsbD (k - 5)) h
    rw [BitVec.getLsbD_extractLsb', show 5 + (k - 5) = k by omega] at hk
    simpa [show k - 5 < 27 by omega] using hk
  · exact BitVec.getLsbD_of_ge w k (by omega)

/-- A read of `STATUS` gives the whole register when its reserved bits are zero. -/
theorem statusRead_of_reserved (h : s.extractLsb' 5 27 = 0) : statusRead s = s := by
  apply BitVec.eq_of_getLsbD_eq
  intro k hk
  by_cases hk5 : 5 ≤ k
  · rw [getLsbD_of_reserved h hk5]
    exact getLsbD_of_reserved (statusWord_reserved ..) hk5
  · obtain rfl | rfl | rfl | rfl | rfl : k = 0 ∨ k = 1 ∨ k = 2 ∨ k = 3 ∨ k = 4 := by omega
    · exact busyBit_statusWord ..
    · exact doneBit_statusWord ..
    · exact okBit_statusWord ..
    · exact illBit_statusWord ..
    · exact qovfBit_statusWord ..

end Sys2Proof.Machine
end

