-- ==== Sys2Proof/Laws/Float.lean ====
section
/-! SUPPORT. The `f32` value type and its bit patterns: what a register can hold is exactly what `F32.Representable` says,
rounding gives nothing else, and rounding leaves it alone. -/

namespace Sys2Proof.Machine

/-- A value some `f32` bit pattern denotes: a finite one is below the overflow bound and has at most 24 significant bits. -/
def F32.Representable : F32 → Prop
  | .nan => True
  | .inf _ => True
  | .fin _ u => u < overflowUnits ∧ 2 ^ spacingExp u ∣ u

/-! ### Fields of a packed word -/

theorem packF32_toNat (n : Bool) (e f : Nat) :
    (packF32 n e f).toNat = n.toNat * 2 ^ 31 + (e % 2 ^ 8) * 2 ^ 23 + f % 2 ^ 23 := by
  unfold packF32
  rw [BitVec.toNat_append, BitVec.toNat_append, BitVec.toNat_ofNat, BitVec.toNat_ofNat, BitVec.toNat_ofBool,
    ← Nat.shiftLeft_add_eq_or_of_lt (Nat.mod_lt _ (by decide)), ← Nat.shiftLeft_add_eq_or_of_lt (Nat.mod_lt _ (by decide)),
    Nat.shiftLeft_eq, Nat.shiftLeft_eq]
  omega

theorem signField_eq (w : Word) : signField w = decide (2 ^ 31 ≤ w.toNat) := by
  unfold signField
  rw [BitVec.getLsbD, Nat.testBit_eq_decide_div_mod_eq]
  have := w.isLt
  congr 1
  apply propext
  omega

theorem exponentField_eq (w : Word) : exponentField w = w.toNat / 2 ^ 23 % 2 ^ 8 := by
  simp [exponentField, BitVec.extractLsb'_toNat, Nat.shiftRight_eq_div_pow]

theorem fractionField_eq (w : Word) : fractionField w = w.toNat % 2 ^ 23 := by
  simp [fractionField, BitVec.extractLsb'_toNat]

theorem fractionField_lt (w : Word) : fractionField w < 2 ^ 23 := by
  rw [fractionField_eq]; omega

theorem exponentField_lt (w : Word) : exponentField w < 256 := by
  rw [exponentField_eq]; omega

@[simp] theorem signField_packF32 (n : Bool) (e f : Nat) : signField (packF32 n e f) = n := by
  rw [signField_eq, packF32_toNat]
  cases n <;> simp <;> omega

theorem exponentField_packF32 (n : Bool) {e : Nat} (f : Nat) (he : e < 256) : exponentField (packF32 n e f) = e := by
  rw [exponentField_eq, packF32_toNat]
  cases n <;> simp <;> omega

theorem fractionField_packF32 (n : Bool) (e : Nat) {f : Nat} (hf : f < 2 ^ 23) : fractionField (packF32 n e f) = f := by
  rw [fractionField_eq, packF32_toNat]
  cases n <;> simp <;> omega

/-- A word is its three fields packed (R70). -/
theorem packF32_fields (w : Word) : packF32 (signField w) (exponentField w) (fractionField w) = w := by
  apply BitVec.eq_of_toNat_eq
  rw [packF32_toNat, signField_eq, exponentField_eq, fractionField_eq]
  have := w.isLt
  by_cases h : 2 ^ 31 ≤ w.toNat
  · rw [decide_eq_true h, Bool.toNat_true]; omega
  · rw [decide_eq_false h, Bool.toNat_false]; omega

/-! ### NaN patterns -/

theorem ofWord_nanWord (r : Word) : F32.ofWord (nanWord r) = .nan := by
  have hf : (if fractionField r = 0 then 1 else fractionField r) < 2 ^ 23 := by
    have := fractionField_lt r
    split <;> omega
  unfold nanWord F32.ofWord
  rw [exponentField_packF32 _ _ (by decide), fractionField_packF32 _ _ hf, if_pos rfl, if_neg]
  split <;> omega

/-! ### Spacing -/

theorem spacingExp_of_lt {q : Nat} (h : q < 2 ^ 24) : spacingExp q = 0 := by
  unfold spacingExp
  rcases Nat.eq_zero_or_pos q with rfl | hq
  · decide
  · have := (Nat.log2_lt (by omega)).mpr h
    omega

theorem spacingExp_bounds {q : Nat} (h : 2 ^ 23 ≤ q) : 2 ^ 23 * 2 ^ spacingExp q ≤ q ∧ q < 2 ^ 24 * 2 ^ spacingExp q := by
  have h0 : q ≠ 0 := by omega
  have h1 := (Nat.le_log2 h0).mpr h
  have h2 : 2 ^ q.log2 ≤ q := Nat.log2_self_le h0
  have h3 : q < 2 ^ (q.log2 + 1) := Nat.lt_log2_self
  unfold spacingExp
  rw [← pow_add, ← pow_add, show 23 + (q.log2 - 23) = q.log2 by omega, show 24 + (q.log2 - 23) = q.log2 + 1 by omega]
  exact ⟨h2, h3⟩

/-- A number of units with 24 significant bits at spacing `2^k` has that spacing. -/
theorem spacingExp_mul {m k : Nat} (h1 : 2 ^ 23 ≤ m) (h2 : m < 2 ^ 24) : spacingExp (m * 2 ^ k) = k := by
  have hm : m ≠ 0 := by omega
  have hp : m * 2 ^ k ≠ 0 := by positivity
  have h : (m * 2 ^ k).log2 = 23 + k := by
    rw [Nat.log2_eq_iff hp]
    rw [pow_add, show 23 + k + 1 = 24 + k by omega, pow_add 2 24]
    exact ⟨Nat.mul_le_mul_right _ h1, Nat.mul_lt_mul_of_pos_right h2 (by positivity)⟩
  unfold spacingExp
  omega

theorem spacingExp_lt_of_lt_overflow {u : Nat} (h : u < overflowUnits) : spacingExp u < 254 := by
  rcases Nat.lt_or_ge u (2 ^ 23) with h' | h'
  · rw [spacingExp_of_lt (by omega)]; decide
  · by_contra hc
    have h1 := (spacingExp_bounds h').1
    have h2 : 2 ^ 254 ≤ 2 ^ spacingExp u := Nat.pow_le_pow_right (by decide) (by omega)
    unfold overflowUnits at h
    have : 2 ^ 23 * 2 ^ 254 ≤ u := le_trans (Nat.mul_le_mul_left _ h2) h1
    omega

/-! ### Words and values -/

/-- What a register holds denotes a representable value. -/
theorem ofWord_representable (w : Word) : (F32.ofWord w).Representable := by
  have hf := fractionField_lt w
  have he := exponentField_lt w
  unfold F32.ofWord
  split
  · split <;> trivial
  · split
    · refine ⟨?_, ?_⟩
      · unfold overflowUnits; omega
      · rw [spacingExp_of_lt (by omega)]; simp
    · refine ⟨?_, ?_⟩
      · have h1 : 2 ^ (exponentField w - 1) ≤ 2 ^ 253 := Nat.pow_le_pow_right (by decide) (by omega)
        unfold overflowUnits
        calc (2 ^ 23 + fractionField w) * 2 ^ (exponentField w - 1)
            ≤ (2 ^ 23 + fractionField w) * 2 ^ 253 := Nat.mul_le_mul_left _ h1
          _ < 2 ^ 24 * 2 ^ 253 := Nat.mul_lt_mul_of_pos_right (by omega) (by positivity)
      · rw [spacingExp_mul (by omega) (by omega)]
        exact Dvd.intro_left _ rfl

/-- Delivering a representable value into a register and reading it back gives the value, whatever the draw. -/
theorem ofWord_toWord (r : Word) {v : F32} (h : v.Representable) : F32.ofWord (v.toWord r) = v := by
  cases v with
  | nan => exact ofWord_nanWord r
  | inf n =>
    unfold F32.toWord F32.ofWord
    simp only [exponentField_packF32 _ _ (show 255 < 256 by decide),
      fractionField_packF32 _ _ (show 0 < 2 ^ 23 by decide), signField_packF32, if_true]
  | fin n u =>
    obtain ⟨h1, h2⟩ := h
    unfold F32.toWord
    by_cases hu : u < 2 ^ 23
    · simp only [hu, if_true]
      unfold F32.ofWord
      simp only [exponentField_packF32 _ _ (show 0 < 256 by decide), fractionField_packF32 _ _ hu, signField_packF32]
      simp
    · simp only [hu, if_false]
      obtain ⟨h3, h4⟩ := spacingExp_bounds (Nat.le_of_not_lt hu)
      have h5 := spacingExp_lt_of_lt_overflow h1
      generalize hk : spacingExp u = k at *
      obtain ⟨m, rfl⟩ := h2
      have hp : 0 < 2 ^ k := by positivity
      have hm1 : 2 ^ 23 ≤ m := by
        by_contra hc
        have : 2 ^ k * m < 2 ^ k * 2 ^ 23 := Nat.mul_lt_mul_of_pos_left (by omega) hp
        rw [mul_comm (2 ^ 23)] at h3
        omega
      have hm2 : m < 2 ^ 24 := by
        by_contra hc
        have : 2 ^ k * 2 ^ 24 ≤ 2 ^ k * m := Nat.mul_le_mul_left _ (by omega)
        rw [mul_comm (2 ^ 24)] at h4
        omega
      rw [Nat.mul_div_cancel_left _ hp]
      unfold F32.ofWord
      rw [exponentField_packF32 _ _ (show k + 1 < 256 by omega), fractionField_packF32 _ _ (show m - 2 ^ 23 < 2 ^ 23 by omega),
        signField_packF32, if_neg (by omega), if_neg (by omega), show 2 ^ 23 + (m - 2 ^ 23) = m by omega,
        Nat.add_sub_cancel, mul_comm]

/-- A bit pattern that is no NaN is what its value is delivered as. -/
theorem toWord_ofWord (r w : Word) (h : F32.ofWord w ≠ .nan) : (F32.ofWord w).toWord r = w := by
  have hf := fractionField_lt w
  have hw := packF32_fields w
  unfold F32.ofWord at h ⊢
  by_cases h1 : exponentField w = 255
  · rw [if_pos h1] at h ⊢
    by_cases h2 : fractionField w = 0
    · rw [if_pos h2]
      rw [h1, h2] at hw
      exact hw
    · exact absurd (if_neg h2) h
  · rw [if_neg h1]
    by_cases h3 : exponentField w = 0
    · rw [if_pos h3]
      rw [h3] at hw
      simp only [F32.toWord, hf, if_true]
      exact hw
    · rw [if_neg h3]
      have hs := spacingExp_mul (m := 2 ^ 23 + fractionField w) (k := exponentField w - 1) (by omega) (by omega)
      have hp : 0 < 2 ^ (exponentField w - 1) := by positivity
      have hge : ¬ (2 ^ 23 + fractionField w) * 2 ^ (exponentField w - 1) < 2 ^ 23 := by
        have := Nat.mul_le_mul_left (2 ^ 23 + fractionField w) hp
        omega
      simp only [F32.toWord, hge, if_false, hs]
      rw [Nat.mul_div_cancel _ hp, show exponentField w - 1 + 1 = exponentField w by omega, Nat.add_sub_cancel_left]
      exact hw

/-! ### Rounding -/

theorem roundHalfEven_of_mul (u : Nat) {d : Nat} (hd : 0 < d) : roundHalfEven (u * d) d = u := by
  unfold roundHalfEven
  rw [Nat.mul_mod_left, Nat.mul_div_cancel _ hd, if_pos (by omega)]

theorem roundHalfEven_ge (n d : Nat) : n / d ≤ roundHalfEven n d := by
  unfold roundHalfEven
  split
  · exact le_refl _
  · split <;> omega

theorem roundHalfEven_le (n d : Nat) : roundHalfEven n d ≤ n / d + 1 := by
  unfold roundHalfEven
  split
  · omega
  · split <;> omega

/-- Rounding leaves a number of units with at most 24 significant bits as it is. -/
theorem roundUnits_exact {u : Nat} (h : 2 ^ spacingExp u ∣ u) {d : Nat} (hd : 0 < d) : roundUnits (u * d) d = u := by
  unfold roundUnits
  rw [Nat.mul_div_cancel _ hd]
  generalize spacingExp u = k at *
  obtain ⟨m, rfl⟩ := h
  rw [show 2 ^ k * m * d = m * (d * 2 ^ k) by ring, roundHalfEven_of_mul _ (by positivity), mul_comm]

/-- Rounding gives a number of units with at most 24 significant bits. -/
theorem roundUnits_dvd (n d : Nat) : 2 ^ spacingExp (roundUnits n d) ∣ roundUnits n d := by
  unfold roundUnits
  generalize hq : n / d = q
  have hge := roundHalfEven_ge n (d * 2 ^ spacingExp q)
  have hle := roundHalfEven_le n (d * 2 ^ spacingExp q)
  rw [← Nat.div_div_eq_div_mul, hq] at hge hle
  generalize roundHalfEven n (d * 2 ^ spacingExp q) = m at *
  have hp : 0 < 2 ^ spacingExp q := by positivity
  rcases Nat.lt_or_ge q (2 ^ 23) with h | h
  · rw [spacingExp_of_lt (by omega), pow_zero, Nat.div_one] at hle hge
    rw [spacingExp_of_lt (show q < 2 ^ 24 by omega), pow_zero, mul_one, spacingExp_of_lt (by omega), pow_zero]
    exact one_dvd _
  · obtain ⟨h1, h2⟩ := spacingExp_bounds h
    have h3 : 2 ^ 23 ≤ q / 2 ^ spacingExp q := (Nat.le_div_iff_mul_le hp).mpr h1
    have h4 : q / 2 ^ spacingExp q < 2 ^ 24 := (Nat.div_lt_iff_lt_mul hp).mpr h2
    rcases Nat.lt_or_ge m (2 ^ 24) with h5 | h5
    · rw [spacingExp_mul (by omega) h5]
      exact Dvd.intro_left _ rfl
    · have h6 : m = 2 ^ 24 := by omega
      rw [h6, show 2 ^ 24 * 2 ^ spacingExp q = 2 ^ 23 * 2 ^ (spacingExp q + 1) by ring, spacingExp_mul (le_refl _) (by decide)]
      exact Dvd.intro_left _ rfl

theorem roundF32_representable (neg : Bool) (n d : Nat) : (roundF32 neg n d).Representable := by
  unfold roundF32
  split
  · exact ⟨by assumption, roundUnits_dvd n d⟩
  · trivial

theorem fneg_representable {v : F32} (h : v.Representable) : (fneg v).Representable := by
  cases v <;> exact h

theorem fabs_representable {v : F32} (h : v.Representable) : (fabs v).Representable := by
  cases v <;> exact h

theorem fzero_representable : fzero.Representable :=
  show 0 < overflowUnits ∧ 2 ^ spacingExp 0 ∣ 0 by decide

theorem fone_representable : fone.Representable :=
  show 2 ^ 149 < overflowUnits ∧ 2 ^ spacingExp (2 ^ 149) ∣ 2 ^ 149 by decide

/-- A rounded sum is representable, whatever the operands. -/
theorem fadd_representable (a b : F32) : (fadd a b).Representable := by
  cases a <;> cases b <;> simp only [fadd] <;> (try split) <;> (try split) <;> (try split) <;>
    (first | trivial | exact roundF32_representable _ _ _)

/-- A rounded difference is representable, whatever the operands. -/
theorem fsub_representable (a b : F32) : (fsub a b).Representable := fadd_representable _ _

/-- A rounded product is representable, whatever the operands. -/
theorem fmul_representable (a b : F32) : (fmul a b).Representable := by
  cases a <;> cases b <;> simp only [fmul] <;> (try split) <;>
    (first | trivial | exact roundF32_representable _ _ _)

/-- A rounded quotient is representable, whatever the operands. -/
theorem fdiv_representable (a b : F32) : (fdiv a b).Representable := by
  cases a <;> cases b <;> simp only [fdiv] <;> (try split) <;> (try split) <;>
    (first | trivial | exact roundF32_representable _ _ _)

theorem i2f_representable (i : Int) : (i2f i).Representable := roundF32_representable _ _ _

/-- Rounding a representable value, given as a ratio, gives the value. -/
theorem roundF32_exact (neg : Bool) {u : Nat} (h : (F32.fin neg u).Representable) {d : Nat} (hd : 0 < d) :
    roundF32 neg (u * d) d = .fin neg u := by
  unfold roundF32
  rw [roundUnits_exact h.2 hd, if_pos h.1]

end Sys2Proof.Machine
end

