-- ==== Sys2Proof/Machine/HostSequences.lean ====
section
/-! DEFINITION. The spec's notation for host sequences, each line as the events it stands for (`30_encoding.md` R88, R89,
R90), the sequences that obtain the parameters of a blit (`45_host_recipes.md` R191, R193, R194), and a host that carries out
the one of R191 with its two checks of `OK`. Log entry 26. -/

namespace Sys2Proof.Machine

/-- `WR reg, value` (R88). -/
def wr (r : Reg) (v : Word) : List Event := [.access (.write (Config.base + r.offset) 4 v)]

/-- `RD reg` (R88). -/
def rd (r : Reg) : List Event := [.access (.read (Config.base + r.offset) 4)]

/-- `CMD mnemonic` (R88). -/
def issue (i : Instr) : List Event := wr .cmd (encode i)

/-- `WAIT` (R88): the polling ends with the `STATUS` read that follows the completion; the reads before it, which return
`BUSY = 1`, are left out (log entry 19). -/
def wait : List Event := .completion :: rd .status

/-- `RUN mnemonic` (R89). -/
def run (i : Instr) : List Event := issue i ++ wait

/-- `SETMAT` (R89): nine writes in index order. -/
def setMat (m : Mat3 Word) : List Event := nineIndices.flatMap fun k => wr (.mat k) (m.get k)

/-- `SETOPM` (R89). -/
def setOpm (m : Mat3 Word) : List Event := nineIndices.flatMap fun k => wr (.opm k) (m.get k)

/-- `SETRECTA` (R89). -/
def setRectA (q : Quad Word) : List Event := fourIndices.flatMap fun k => wr (.rectA k) (q.get k)

/-- `SETRECTB` (R89). -/
def setRectB (q : Quad Word) : List Event := fourIndices.flatMap fun k => wr (.rectB k) (q.get k)

/-- `SETBUF` (R89). -/
def setBuf (w h : Word) : List Event := wr .bufW w ++ wr .bufH h

/-- `SETSRC` (R89). -/
def setSrc (i : Fin 4) (x y : Word) : List Event := wr (.srcX i) x ++ wr (.srcY i) y

/-- `SETDST` (R89). -/
def setDst (i : Fin 4) (x y : Word) : List Event := wr (.dstX i) x ++ wr (.dstY i) y

/-- `CLRDONE` (R89). -/
def clrDone : List Event := wr .status 0x00000002

/-- `CLRFLAGS` (R89): clears `DONE`, `ILL`, `QOVF`. -/
def clrFlags : List Event := wr .status 0x0000001A

/-- One transform step of a forward matrix (R191). -/
inductive TransformStep where
  | translate (x y : Word)
  | scale (sx sy : Word)
  | rotate (degrees : Word)
  | perspective (px py : Word)
  deriving DecidableEq, Repr

/-- How a host builds the forward matrix, source to destination (R191): from the identity by transform steps, or by the
solver from four point pairs. -/
inductive ForwardMatrix where
  | steps (l : List TransformStep)
  | points (src dst : Quad (Point Word))
  deriving DecidableEq, Repr

/-- The operands of a transform step and its command (R191). -/
def transformStep : TransformStep → List Event
  | .translate x y => wr .opa x ++ wr .opb y ++ run .mtrans
  | .scale sx sy => wr .opa sx ++ wr .opb sy ++ run .mscale
  | .rotate degrees => wr .deg degrees ++ run .mrot
  | .perspective px py => wr .opa px ++ wr .opb py ++ run .mpersp

/-- The forward matrix put into `MAT` (R191, first two lines). With point pairs the last event is the read of `STATUS` in
which the host checks `OK`. -/
def buildForward : ForwardMatrix → List Event
  | .steps l => run .mident ++ l.flatMap transformStep
  | .points src dst =>
    fourIndices.flatMap (fun i => setSrc i (src.get i).x (src.get i).y)
      ++ fourIndices.flatMap (fun i => setDst i (dst.get i).x (dst.get i).y) ++ run .msolve

/-- The destination rectangle computed from the matrix in `MAT`; the last event is `RD STATUS` (R191, third line). -/
def projectRect (rect : Quad Word) (w h : Word) : List Event := setRectA rect ++ setBuf w h ++ run .area ++ rd .status

/-- `RD RECTO[0..3]` (R191). -/
def readRect : List Event := fourIndices.flatMap fun k => rd (.rectO k)

/-- The matrix in `MAT` encoded; the last event is `RD STATUS` (R191, last line). -/
def encodeMatrix : List Event := run .qenc ++ rd .status

/-- The forward matrix in `MAT` inverted and encoded (R191, last two lines). -/
def encodeForward : List Event := run .minv ++ encodeMatrix

/-- `RD COMP[0..8]` (R191). -/
def readComp : List Event := nineIndices.flatMap fun k => rd (.comp k)

/-- The parameters of a blit from a forward matrix already in `MAT` (R191, from `SETRECTA` on), for a host that finds
`OK = 1` after AREA. -/
def blitParameters (rect : Quad Word) (w h : Word) : List Event :=
  projectRect rect w h ++ readRect ++ encodeForward ++ readComp

/-- The whole sequence of R191, for a host that finds `OK = 1` wherever it checks. -/
def blitSequence (f : ForwardMatrix) (rect : Quad Word) (w h : Word) : List Event :=
  buildForward f ++ blitParameters rect w h

/-- The nine words of a host that has the inverse matrix: no MINV and no AREA (R193, R199). -/
def encodeInverse (inv : Mat3 Word) : List Event := setMat inv ++ encodeMatrix ++ readComp

/-- The rectangle for a host that has only the inverse matrix, which it loads again afterwards: the exact way of the two of
R194. For a host that finds `OK = 1` after AREA. -/
def rectFromInverse (inv : Mat3 Word) (rect : Quad Word) (w h : Word) : List Event :=
  setMat inv ++ run .minv ++ projectRect rect w h ++ readRect ++ setMat inv

/-! ### A host that decides by what it reads -/

/-- What carrying out some events leaves: the machine, and the words the host has read, the first read first. -/
structure HostRun where
  state : State
  reads : List Word
  deriving DecidableEq, Repr

/-- Going on with a result, if there is one; a fault or a refusal ends the host's run. -/
def andThen {α β : Type} (o : Host.Outcome α Fault Refusal) (f : α → Host.Outcome β Fault Refusal) :
    Host.Outcome β Fault Refusal :=
  match o with
  | .next a => f a
  | .fault r => .fault r
  | .refused r => .refused r

/-- The word a host has read by an event after which the state is `t`, if the event was a read. -/
def wordRead (e : Event) (t : State) : List Word :=
  match e, t.response with
  | .access (.read _ _), some (.data w) => [w]
  | .access (.read _ _), some .written | .access (.read _ _), none | .access (.write _ _ _), _ | .completion, _
  | .reset, _ => []

/-- The events carried out one by one, and what the host reads by them. The schedule of `s` plays no part. -/
def hostRun : List Event → State → Host.Outcome HostRun Fault Refusal
  | [], s => .next ⟨s, []⟩
  | e :: es, s =>
    andThen { s with schedule := [e] }.advance fun t =>
      andThen (hostRun es t) fun r => .next ⟨r.state, wordRead e t ++ r.reads⟩

/-- `check OK`: bit 2 of the word read last, which is one of `STATUS` (R191, R34). -/
def HostRun.okRead (r : HostRun) : Bool := okBit (r.reads.getLast?.getD 0)

/-- How the host of R191 ends. -/
inductive BlitEnd where
  /-- The solver failed: an error of the host, and nothing more is asked of the block (R157, R195). -/
  | invalidMatrix
  /-- `OK = 0` after AREA: the host stops, a successful no-op (R191, R196). -/
  | noOp
  /-- The parameters: the words of `RECTO`, the word of `STATUS` with `QOVF`, the words of `COMP`. -/
  | parameters (rect : List Word) (status : Word) (comp : List Word)
  deriving DecidableEq, Repr

/-- The host checks `OK` after building the matrix only where MSOLVE has built it (R191). -/
def ForwardMatrix.checked : ForwardMatrix → Bool
  | .steps _ => false
  | .points _ _ => true

/-- The part of R191 after a successful AREA. -/
def finishBlit (s : State) : Host.Outcome (State × BlitEnd) Fault Refusal :=
  andThen (hostRun readRect s) fun a =>
    andThen (hostRun encodeForward a.state) fun b =>
      andThen (hostRun readComp b.state) fun c =>
        .next (c.state, .parameters a.reads (b.reads.getLast?.getD 0) c.reads)

/-- A host that obtains the parameters of one blit (R191). -/
def hostBlit (f : ForwardMatrix) (rect : Quad Word) (w h : Word) (s : State) : Host.Outcome (State × BlitEnd) Fault Refusal :=
  andThen (hostRun (buildForward f) s) fun a =>
    if f.checked && !a.okRead then .next (a.state, .invalidMatrix)
    else
      andThen (hostRun (projectRect rect w h) a.state) fun b =>
        if b.okRead then finishBlit b.state else .next (b.state, .noOp)

end Sys2Proof.Machine
end

