-- ==== Sys2Proof/Laws/HostSequences.lean ====
section
/-! SUPPORT. What carrying out host sequences can do, said once: sequences compose, and on accesses to registers by name a run
does not depend on where the block stands in the address space. -/

namespace Sys2Proof.Machine

/-- Every register stands where an access is admitted. -/
theorem offset_admitted (r : Reg) : r.offset < 0x200 ∧ r.offset % 4 = 0 := by
  cases r with
  | mat k | opm k | srcX k | srcY k | dstX k | dstY k | rectA k | rectB k | rectO k | comp k => revert k; decide
  | _ => decide

@[simp] theorem andThen_next {α β : Type} (a : α) (f : α → Host.Outcome β Fault Refusal) : andThen (.next a) f = f a := rfl

@[simp] theorem andThen_fault {α β : Type} (r : Fault) (f : α → Host.Outcome β Fault Refusal) :
    andThen (.fault r) f = .fault r := rfl

@[simp] theorem andThen_refused {α β : Type} (r : Refusal) (f : α → Host.Outcome β Fault Refusal) :
    andThen (.refused r) f = .refused r := rfl

theorem andThen_assoc {α β γ : Type} (o : Host.Outcome α Fault Refusal) (f : α → Host.Outcome β Fault Refusal)
    (g : β → Host.Outcome γ Fault Refusal) : andThen (andThen o f) g = andThen o fun a => andThen (f a) g := by
  cases o <;> rfl

/-- Carrying out one sequence and then another. -/
theorem hostRun_append (es fs : List Event) (s : State) :
    hostRun (es ++ fs) s =
      andThen (hostRun es s) fun a => andThen (hostRun fs a.state) fun b => .next ⟨b.state, a.reads ++ b.reads⟩ := by
  induction es generalizing s with
  | nil =>
    simp only [List.nil_append, hostRun, andThen_next]
    cases hostRun fs s <;> rfl
  | cons e es ih => simp only [List.cons_append, hostRun, andThen_assoc, andThen_next, ih, List.append_assoc]

/-- One event of a host sequence, its register by name. -/
inductive HostLine where
  | write (r : Reg) (v : Word)
  | read (r : Reg)
  | completion
  deriving DecidableEq, Repr

/-- The event of a line. -/
def HostLine.event : HostLine → Event
  | .write r v => .access (.write (Config.base + r.offset) 4 v)
  | .read r => .access (.read (Config.base + r.offset) 4)
  | .completion => .completion

/-- The next state of one line. -/
def HostLine.apply (s : State) : HostLine → Host.Outcome State Fault Refusal
  | .write r v => s.hostWrite r.offset v
  | .read r => .next (s.hostRead r.offset)
  | .completion => s.blockTurn

/-- The run of a list of lines; no address is formed. -/
def lineRun : List HostLine → State → Host.Outcome HostRun Fault Refusal
  | [], s => .next ⟨s, []⟩
  | l :: ls, s =>
    andThen (l.apply { s with schedule := [] }) fun t =>
      andThen (lineRun ls t) fun r => .next ⟨r.state, wordRead l.event t ++ r.reads⟩

theorem advance_line (l : HostLine) (s : State) :
    { s with schedule := [l.event] }.advance = l.apply { s with schedule := [] } := by
  cases l with
  | write r v => exact hostAccess_write _ v (offset_admitted r).1 (offset_admitted r).2
  | read r => exact hostAccess_read _ (offset_admitted r).1 (offset_admitted r).2
  | completion => rfl

/-- A run on registers by name does not depend on `BASE`. -/
theorem hostRun_lines (ls : List HostLine) (s : State) : hostRun (ls.map HostLine.event) s = lineRun ls s := by
  induction ls generalizing s with
  | nil => rfl
  | cons l ls ih => simp only [List.map_cons, hostRun, lineRun, advance_line, ih]

end Sys2Proof.Machine
end

