-- ==== Sys2Proof/Laws/Layout.lean ====
section
/-! SUPPORT. Reading after writing, and reading after mapping, for the matrix and the four-of-a-kind. -/

namespace Sys2Proof.Machine

variable {α β : Type}

@[simp] theorem Mat3.get_mapIdx (f : Nat → α → β) (m : Mat3 α) (k : Fin 9) : (m.mapIdx f).get k = f k.val (m.get k) := by
  fin_cases k <;> rfl

@[simp] theorem Mat3.get_map (f : α → β) (m : Mat3 α) (k : Fin 9) : (m.map f).get k = f (m.get k) := by
  fin_cases k <;> rfl

@[simp] theorem Mat3.get_set (m : Mat3 α) (k j : Fin 9) (v : α) : (m.set k v).get j = if j = k then v else m.get j := by
  fin_cases k <;> fin_cases j <;> rfl

@[simp] theorem Mat3.get_all9 (v : α) (k : Fin 9) : (Mat3.all9 v).get k = v := by
  fin_cases k <;> rfl

@[simp] theorem Quad.get_set (q : Quad α) (k j : Fin 4) (v : α) : (q.set k v).get j = if j = k then v else q.get j := by
  fin_cases k <;> fin_cases j <;> rfl

@[simp] theorem Quad.get_map (f : α → β) (q : Quad α) (k : Fin 4) : (q.map f).get k = f (q.get k) := by
  fin_cases k <;> rfl

@[simp] theorem Quad.get_all4 (v : α) (k : Fin 4) : (Quad.all4 v).get k = v := by
  fin_cases k <;> rfl

/-- Two matrices with the same elements are the same. -/
theorem Mat3.ext_get {m n : Mat3 α} (h : ∀ k, m.get k = n.get k) : m = n := by
  cases m
  cases n
  have h0 := h 0
  have h1 := h 1
  have h2 := h 2
  have h3 := h 3
  have h4 := h 4
  have h5 := h 5
  have h6 := h 6
  have h7 := h 7
  have h8 := h 8
  simp only [Mat3.get] at h0 h1 h2 h3 h4 h5 h6 h7 h8
  subst_vars
  rfl

/-- `any` looks at the nine elements. -/
theorem Mat3.any_eq_true_iff (p : α → Bool) (m : Mat3 α) : m.any p = true ↔ ∃ k, p (m.get k) = true := by
  simp only [Mat3.any, Bool.or_eq_true]
  constructor
  · rintro ((((((((h | h) | h) | h) | h) | h) | h) | h) | h)
    exacts [⟨0, h⟩, ⟨1, h⟩, ⟨2, h⟩, ⟨3, h⟩, ⟨4, h⟩, ⟨5, h⟩, ⟨6, h⟩, ⟨7, h⟩, ⟨8, h⟩]
  · rintro ⟨k, h⟩
    fin_cases k <;> simp_all [Mat3.get]

end Sys2Proof.Machine
end

