-- ==== Sys2Proof/Laws/PerInstr.lean ====
section
/-! SUPPORT. Per-instruction facts about the command words, one lemma a constructor. -/

namespace Sys2Proof.Laws.Encoding

/-- A command is well formed, its word has a zero ZERO field (R80), its opcode stands in the `OP` field, and the opcode lies
in the group of the unit that carries the command out (R83). -/
def Statement (i : Instr) : Prop :=
  i.wellFormed = true ∧ zeroFieldClear (encode i) = true ∧ opField (encode i) = opcode i ∧
    groupOf (opcode i) = some (unitOf i)

theorem mident : Statement .mident := by unfold Statement; decide

theorem mmul : Statement .mmul := by unfold Statement; decide

theorem mtrans : Statement .mtrans := by unfold Statement; decide

theorem mscale : Statement .mscale := by unfold Statement; decide

theorem mrot : Statement .mrot := by unfold Statement; decide

theorem mpersp : Statement .mpersp := by unfold Statement; decide

theorem minv : Statement .minv := by unfold Statement; decide

theorem mchkinv : Statement .mchkinv := by unfold Statement; decide

theorem msolve : Statement .msolve := by unfold Statement; decide

theorem qenc : Statement .qenc := by unfold Statement; decide

theorem area : Statement .area := by unfold Statement; decide

theorem risect : Statement .risect := by unfold Statement; decide

end Sys2Proof.Laws.Encoding
end

