-- ==== Sys2Proof/Laws/State.lean ====
section
/-! SUPPORT. What each shared update leaves in each field of the state, one lemma a field; true by unfolding. Later proofs
cite these through `simp` and unfold no record update. -/

namespace Sys2Proof.Machine

variable (s : State)

/-! ### `State.writeMatrix` -/

@[simp] theorem writeMatrix_cmd (t : Mat3 F32) : (s.writeMatrix t).cmd = s.cmd := rfl
@[simp] theorem writeMatrix_status (t : Mat3 F32) : (s.writeMatrix t).status = s.status := rfl
@[simp] theorem writeMatrix_ctrl (t : Mat3 F32) : (s.writeMatrix t).ctrl = s.ctrl := rfl
@[simp] theorem writeMatrix_rc (t : Mat3 F32) : (s.writeMatrix t).rc = s.rc := rfl
@[simp] theorem writeMatrix_mat (t : Mat3 F32) : (s.writeMatrix t).mat = matrixWords s.draws t := rfl
@[simp] theorem writeMatrix_opm (t : Mat3 F32) : (s.writeMatrix t).opm = s.opm := rfl
@[simp] theorem writeMatrix_opa (t : Mat3 F32) : (s.writeMatrix t).opa = s.opa := rfl
@[simp] theorem writeMatrix_opb (t : Mat3 F32) : (s.writeMatrix t).opb = s.opb := rfl
@[simp] theorem writeMatrix_deg (t : Mat3 F32) : (s.writeMatrix t).deg = s.deg := rfl
@[simp] theorem writeMatrix_srcpt (t : Mat3 F32) : (s.writeMatrix t).srcpt = s.srcpt := rfl
@[simp] theorem writeMatrix_dstpt (t : Mat3 F32) : (s.writeMatrix t).dstpt = s.dstpt := rfl
@[simp] theorem writeMatrix_recta (t : Mat3 F32) : (s.writeMatrix t).recta = s.recta := rfl
@[simp] theorem writeMatrix_rectb (t : Mat3 F32) : (s.writeMatrix t).rectb = s.rectb := rfl
@[simp] theorem writeMatrix_bufw (t : Mat3 F32) : (s.writeMatrix t).bufw = s.bufw := rfl
@[simp] theorem writeMatrix_bufh (t : Mat3 F32) : (s.writeMatrix t).bufh = s.bufh := rfl
@[simp] theorem writeMatrix_recto (t : Mat3 F32) : (s.writeMatrix t).recto = s.recto := rfl
@[simp] theorem writeMatrix_comp (t : Mat3 F32) : (s.writeMatrix t).comp = s.comp := rfl
@[simp] theorem writeMatrix_latched (t : Mat3 F32) : (s.writeMatrix t).latched = s.latched := rfl
@[simp] theorem writeMatrix_schedule (t : Mat3 F32) : (s.writeMatrix t).schedule = s.schedule := rfl
@[simp] theorem writeMatrix_response (t : Mat3 F32) : (s.writeMatrix t).response = s.response := rfl
@[simp] theorem writeMatrix_draws (t : Mat3 F32) : (s.writeMatrix t).draws = s.draws + 9 := rfl

/-! ### `State.writeRectO` -/

@[simp] theorem writeRectO_cmd (a b c d : Int) : (s.writeRectO a b c d).cmd = s.cmd := rfl
@[simp] theorem writeRectO_status (a b c d : Int) : (s.writeRectO a b c d).status = s.status := rfl
@[simp] theorem writeRectO_ctrl (a b c d : Int) : (s.writeRectO a b c d).ctrl = s.ctrl := rfl
@[simp] theorem writeRectO_rc (a b c d : Int) : (s.writeRectO a b c d).rc = s.rc := rfl
@[simp] theorem writeRectO_mat (a b c d : Int) : (s.writeRectO a b c d).mat = s.mat := rfl
@[simp] theorem writeRectO_opm (a b c d : Int) : (s.writeRectO a b c d).opm = s.opm := rfl
@[simp] theorem writeRectO_opa (a b c d : Int) : (s.writeRectO a b c d).opa = s.opa := rfl
@[simp] theorem writeRectO_opb (a b c d : Int) : (s.writeRectO a b c d).opb = s.opb := rfl
@[simp] theorem writeRectO_deg (a b c d : Int) : (s.writeRectO a b c d).deg = s.deg := rfl
@[simp] theorem writeRectO_srcpt (a b c d : Int) : (s.writeRectO a b c d).srcpt = s.srcpt := rfl
@[simp] theorem writeRectO_dstpt (a b c d : Int) : (s.writeRectO a b c d).dstpt = s.dstpt := rfl
@[simp] theorem writeRectO_recta (a b c d : Int) : (s.writeRectO a b c d).recta = s.recta := rfl
@[simp] theorem writeRectO_rectb (a b c d : Int) : (s.writeRectO a b c d).rectb = s.rectb := rfl
@[simp] theorem writeRectO_bufw (a b c d : Int) : (s.writeRectO a b c d).bufw = s.bufw := rfl
@[simp] theorem writeRectO_bufh (a b c d : Int) : (s.writeRectO a b c d).bufh = s.bufh := rfl
@[simp] theorem writeRectO_recto (a b c d : Int) : (s.writeRectO a b c d).recto = ⟨u32 a, u32 b, u32 c, u32 d⟩ := rfl
@[simp] theorem writeRectO_comp (a b c d : Int) : (s.writeRectO a b c d).comp = s.comp := rfl
@[simp] theorem writeRectO_latched (a b c d : Int) : (s.writeRectO a b c d).latched = s.latched := rfl
@[simp] theorem writeRectO_schedule (a b c d : Int) : (s.writeRectO a b c d).schedule = s.schedule := rfl
@[simp] theorem writeRectO_response (a b c d : Int) : (s.writeRectO a b c d).response = s.response := rfl
@[simp] theorem writeRectO_draws (a b c d : Int) : (s.writeRectO a b c d).draws = s.draws := rfl

/-! ### `State.accept` -/

@[simp] theorem accept_cmd (v : Word) : (s.accept v).cmd = v := rfl
@[simp] theorem accept_status (v : Word) : (s.accept v).status = statusAfterAccept s.status := rfl
@[simp] theorem accept_ctrl (v : Word) : (s.accept v).ctrl = s.ctrl := rfl
@[simp] theorem accept_rc (v : Word) : (s.accept v).rc = s.rc := rfl
@[simp] theorem accept_mat (v : Word) : (s.accept v).mat = s.mat := rfl
@[simp] theorem accept_opm (v : Word) : (s.accept v).opm = s.opm := rfl
@[simp] theorem accept_opa (v : Word) : (s.accept v).opa = s.opa := rfl
@[simp] theorem accept_opb (v : Word) : (s.accept v).opb = s.opb := rfl
@[simp] theorem accept_deg (v : Word) : (s.accept v).deg = s.deg := rfl
@[simp] theorem accept_srcpt (v : Word) : (s.accept v).srcpt = s.srcpt := rfl
@[simp] theorem accept_dstpt (v : Word) : (s.accept v).dstpt = s.dstpt := rfl
@[simp] theorem accept_recta (v : Word) : (s.accept v).recta = s.recta := rfl
@[simp] theorem accept_rectb (v : Word) : (s.accept v).rectb = s.rectb := rfl
@[simp] theorem accept_bufw (v : Word) : (s.accept v).bufw = s.bufw := rfl
@[simp] theorem accept_bufh (v : Word) : (s.accept v).bufh = s.bufh := rfl
@[simp] theorem accept_recto (v : Word) : (s.accept v).recto = s.recto := rfl
@[simp] theorem accept_comp (v : Word) : (s.accept v).comp = s.comp := rfl
@[simp] theorem accept_latched (v : Word) : (s.accept v).latched = some v := rfl
@[simp] theorem accept_schedule (v : Word) : (s.accept v).schedule = s.schedule := rfl
@[simp] theorem accept_response (v : Word) : (s.accept v).response = s.response := rfl
@[simp] theorem accept_draws (v : Word) : (s.accept v).draws = s.draws := rfl

/-! ### `State.finish` -/

@[simp] theorem finish_cmd (ok : Bool) (code : Int) (i q : Bool) : (s.finish ok code i q).cmd = s.cmd := rfl
@[simp] theorem finish_status (ok : Bool) (code : Int) (i q : Bool) : (s.finish ok code i q).status = statusAfterCompletion s.status ok i q := rfl
@[simp] theorem finish_ctrl (ok : Bool) (code : Int) (i q : Bool) : (s.finish ok code i q).ctrl = s.ctrl := rfl
@[simp] theorem finish_rc (ok : Bool) (code : Int) (i q : Bool) : (s.finish ok code i q).rc = u32 code := rfl
@[simp] theorem finish_mat (ok : Bool) (code : Int) (i q : Bool) : (s.finish ok code i q).mat = s.mat := rfl
@[simp] theorem finish_opm (ok : Bool) (code : Int) (i q : Bool) : (s.finish ok code i q).opm = s.opm := rfl
@[simp] theorem finish_opa (ok : Bool) (code : Int) (i q : Bool) : (s.finish ok code i q).opa = s.opa := rfl
@[simp] theorem finish_opb (ok : Bool) (code : Int) (i q : Bool) : (s.finish ok code i q).opb = s.opb := rfl
@[simp] theorem finish_deg (ok : Bool) (code : Int) (i q : Bool) : (s.finish ok code i q).deg = s.deg := rfl
@[simp] theorem finish_srcpt (ok : Bool) (code : Int) (i q : Bool) : (s.finish ok code i q).srcpt = s.srcpt := rfl
@[simp] theorem finish_dstpt (ok : Bool) (code : Int) (i q : Bool) : (s.finish ok code i q).dstpt = s.dstpt := rfl
@[simp] theorem finish_recta (ok : Bool) (code : Int) (i q : Bool) : (s.finish ok code i q).recta = s.recta := rfl
@[simp] theorem finish_rectb (ok : Bool) (code : Int) (i q : Bool) : (s.finish ok code i q).rectb = s.rectb := rfl
@[simp] theorem finish_bufw (ok : Bool) (code : Int) (i q : Bool) : (s.finish ok code i q).bufw = s.bufw := rfl
@[simp] theorem finish_bufh (ok : Bool) (code : Int) (i q : Bool) : (s.finish ok code i q).bufh = s.bufh := rfl
@[simp] theorem finish_recto (ok : Bool) (code : Int) (i q : Bool) : (s.finish ok code i q).recto = s.recto := rfl
@[simp] theorem finish_comp (ok : Bool) (code : Int) (i q : Bool) : (s.finish ok code i q).comp = s.comp := rfl
@[simp] theorem finish_latched (ok : Bool) (code : Int) (i q : Bool) : (s.finish ok code i q).latched = none := rfl
@[simp] theorem finish_schedule (ok : Bool) (code : Int) (i q : Bool) : (s.finish ok code i q).schedule = s.schedule := rfl
@[simp] theorem finish_response (ok : Bool) (code : Int) (i q : Bool) : (s.finish ok code i q).response = s.response := rfl
@[simp] theorem finish_draws (ok : Bool) (code : Int) (i q : Bool) : (s.finish ok code i q).draws = s.draws := rfl

/-! ### `State.succeed` -/

@[simp] theorem succeed_cmd : s.succeed.cmd = s.cmd := rfl
@[simp] theorem succeed_status : s.succeed.status = statusAfterCompletion s.status true false false := rfl
@[simp] theorem succeed_ctrl : s.succeed.ctrl = s.ctrl := rfl
@[simp] theorem succeed_rc : s.succeed.rc = u32 0 := rfl
@[simp] theorem succeed_mat : s.succeed.mat = s.mat := rfl
@[simp] theorem succeed_opm : s.succeed.opm = s.opm := rfl
@[simp] theorem succeed_opa : s.succeed.opa = s.opa := rfl
@[simp] theorem succeed_opb : s.succeed.opb = s.opb := rfl
@[simp] theorem succeed_deg : s.succeed.deg = s.deg := rfl
@[simp] theorem succeed_srcpt : s.succeed.srcpt = s.srcpt := rfl
@[simp] theorem succeed_dstpt : s.succeed.dstpt = s.dstpt := rfl
@[simp] theorem succeed_recta : s.succeed.recta = s.recta := rfl
@[simp] theorem succeed_rectb : s.succeed.rectb = s.rectb := rfl
@[simp] theorem succeed_bufw : s.succeed.bufw = s.bufw := rfl
@[simp] theorem succeed_bufh : s.succeed.bufh = s.bufh := rfl
@[simp] theorem succeed_recto : s.succeed.recto = s.recto := rfl
@[simp] theorem succeed_comp : s.succeed.comp = s.comp := rfl
@[simp] theorem succeed_latched : s.succeed.latched = none := rfl
@[simp] theorem succeed_schedule : s.succeed.schedule = s.schedule := rfl
@[simp] theorem succeed_response : s.succeed.response = s.response := rfl
@[simp] theorem succeed_draws : s.succeed.draws = s.draws := rfl

/-! ### `State.fail` -/

@[simp] theorem fail_cmd (code : Int) : (s.fail code).cmd = s.cmd := rfl
@[simp] theorem fail_status (code : Int) : (s.fail code).status = statusAfterCompletion s.status false false false := rfl
@[simp] theorem fail_ctrl (code : Int) : (s.fail code).ctrl = s.ctrl := rfl
@[simp] theorem fail_rc (code : Int) : (s.fail code).rc = u32 code := rfl
@[simp] theorem fail_mat (code : Int) : (s.fail code).mat = s.mat := rfl
@[simp] theorem fail_opm (code : Int) : (s.fail code).opm = s.opm := rfl
@[simp] theorem fail_opa (code : Int) : (s.fail code).opa = s.opa := rfl
@[simp] theorem fail_opb (code : Int) : (s.fail code).opb = s.opb := rfl
@[simp] theorem fail_deg (code : Int) : (s.fail code).deg = s.deg := rfl
@[simp] theorem fail_srcpt (code : Int) : (s.fail code).srcpt = s.srcpt := rfl
@[simp] theorem fail_dstpt (code : Int) : (s.fail code).dstpt = s.dstpt := rfl
@[simp] theorem fail_recta (code : Int) : (s.fail code).recta = s.recta := rfl
@[simp] theorem fail_rectb (code : Int) : (s.fail code).rectb = s.rectb := rfl
@[simp] theorem fail_bufw (code : Int) : (s.fail code).bufw = s.bufw := rfl
@[simp] theorem fail_bufh (code : Int) : (s.fail code).bufh = s.bufh := rfl
@[simp] theorem fail_recto (code : Int) : (s.fail code).recto = s.recto := rfl
@[simp] theorem fail_comp (code : Int) : (s.fail code).comp = s.comp := rfl
@[simp] theorem fail_latched (code : Int) : (s.fail code).latched = none := rfl
@[simp] theorem fail_schedule (code : Int) : (s.fail code).schedule = s.schedule := rfl
@[simp] theorem fail_response (code : Int) : (s.fail code).response = s.response := rfl
@[simp] theorem fail_draws (code : Int) : (s.fail code).draws = s.draws := rfl

/-! ### `State.completeIllegal` -/

@[simp] theorem completeIllegal_cmd : s.completeIllegal.cmd = s.cmd := rfl
@[simp] theorem completeIllegal_status : s.completeIllegal.status = statusAfterCompletion s.status false true false := rfl
@[simp] theorem completeIllegal_ctrl : s.completeIllegal.ctrl = s.ctrl := rfl
@[simp] theorem completeIllegal_rc : s.completeIllegal.rc = u32 illegalCode := rfl
@[simp] theorem completeIllegal_mat : s.completeIllegal.mat = s.mat := rfl
@[simp] theorem completeIllegal_opm : s.completeIllegal.opm = s.opm := rfl
@[simp] theorem completeIllegal_opa : s.completeIllegal.opa = s.opa := rfl
@[simp] theorem completeIllegal_opb : s.completeIllegal.opb = s.opb := rfl
@[simp] theorem completeIllegal_deg : s.completeIllegal.deg = s.deg := rfl
@[simp] theorem completeIllegal_srcpt : s.completeIllegal.srcpt = s.srcpt := rfl
@[simp] theorem completeIllegal_dstpt : s.completeIllegal.dstpt = s.dstpt := rfl
@[simp] theorem completeIllegal_recta : s.completeIllegal.recta = s.recta := rfl
@[simp] theorem completeIllegal_rectb : s.completeIllegal.rectb = s.rectb := rfl
@[simp] theorem completeIllegal_bufw : s.completeIllegal.bufw = s.bufw := rfl
@[simp] theorem completeIllegal_bufh : s.completeIllegal.bufh = s.bufh := rfl
@[simp] theorem completeIllegal_recto : s.completeIllegal.recto = s.recto := rfl
@[simp] theorem completeIllegal_comp : s.completeIllegal.comp = s.comp := rfl
@[simp] theorem completeIllegal_latched : s.completeIllegal.latched = none := rfl
@[simp] theorem completeIllegal_schedule : s.completeIllegal.schedule = s.schedule := rfl
@[simp] theorem completeIllegal_response : s.completeIllegal.response = s.response := rfl
@[simp] theorem completeIllegal_draws : s.completeIllegal.draws = s.draws := rfl

/-! ### `State.afterReset` -/

@[simp] theorem afterReset_cmd : s.afterReset.cmd = State.reset.cmd := rfl
@[simp] theorem afterReset_status : s.afterReset.status = State.reset.status := rfl
@[simp] theorem afterReset_ctrl : s.afterReset.ctrl = State.reset.ctrl := rfl
@[simp] theorem afterReset_rc : s.afterReset.rc = State.reset.rc := rfl
@[simp] theorem afterReset_mat : s.afterReset.mat = State.reset.mat := rfl
@[simp] theorem afterReset_opm : s.afterReset.opm = State.reset.opm := rfl
@[simp] theorem afterReset_opa : s.afterReset.opa = State.reset.opa := rfl
@[simp] theorem afterReset_opb : s.afterReset.opb = State.reset.opb := rfl
@[simp] theorem afterReset_deg : s.afterReset.deg = State.reset.deg := rfl
@[simp] theorem afterReset_srcpt : s.afterReset.srcpt = State.reset.srcpt := rfl
@[simp] theorem afterReset_dstpt : s.afterReset.dstpt = State.reset.dstpt := rfl
@[simp] theorem afterReset_recta : s.afterReset.recta = State.reset.recta := rfl
@[simp] theorem afterReset_rectb : s.afterReset.rectb = State.reset.rectb := rfl
@[simp] theorem afterReset_bufw : s.afterReset.bufw = State.reset.bufw := rfl
@[simp] theorem afterReset_bufh : s.afterReset.bufh = State.reset.bufh := rfl
@[simp] theorem afterReset_recto : s.afterReset.recto = State.reset.recto := rfl
@[simp] theorem afterReset_comp : s.afterReset.comp = State.reset.comp := rfl
@[simp] theorem afterReset_latched : s.afterReset.latched = State.reset.latched := rfl
@[simp] theorem afterReset_schedule : s.afterReset.schedule = s.schedule := rfl
@[simp] theorem afterReset_response : s.afterReset.response = State.reset.response := rfl
@[simp] theorem afterReset_draws : s.afterReset.draws = s.draws := rfl

/-! ### `State.placeCommand` -/

@[simp] theorem placeCommand_cmd (v : Word) : (s.placeCommand v).cmd = v := rfl
@[simp] theorem placeCommand_status (v : Word) : (s.placeCommand v).status = statusAfterAccept s.status := rfl
@[simp] theorem placeCommand_ctrl (v : Word) : (s.placeCommand v).ctrl = s.ctrl := rfl
@[simp] theorem placeCommand_rc (v : Word) : (s.placeCommand v).rc = s.rc := rfl
@[simp] theorem placeCommand_mat (v : Word) : (s.placeCommand v).mat = s.mat := rfl
@[simp] theorem placeCommand_opm (v : Word) : (s.placeCommand v).opm = s.opm := rfl
@[simp] theorem placeCommand_opa (v : Word) : (s.placeCommand v).opa = s.opa := rfl
@[simp] theorem placeCommand_opb (v : Word) : (s.placeCommand v).opb = s.opb := rfl
@[simp] theorem placeCommand_deg (v : Word) : (s.placeCommand v).deg = s.deg := rfl
@[simp] theorem placeCommand_srcpt (v : Word) : (s.placeCommand v).srcpt = s.srcpt := rfl
@[simp] theorem placeCommand_dstpt (v : Word) : (s.placeCommand v).dstpt = s.dstpt := rfl
@[simp] theorem placeCommand_recta (v : Word) : (s.placeCommand v).recta = s.recta := rfl
@[simp] theorem placeCommand_rectb (v : Word) : (s.placeCommand v).rectb = s.rectb := rfl
@[simp] theorem placeCommand_bufw (v : Word) : (s.placeCommand v).bufw = s.bufw := rfl
@[simp] theorem placeCommand_bufh (v : Word) : (s.placeCommand v).bufh = s.bufh := rfl
@[simp] theorem placeCommand_recto (v : Word) : (s.placeCommand v).recto = s.recto := rfl
@[simp] theorem placeCommand_comp (v : Word) : (s.placeCommand v).comp = s.comp := rfl
@[simp] theorem placeCommand_latched (v : Word) : (s.placeCommand v).latched = some v := rfl
@[simp] theorem placeCommand_schedule (v : Word) : (s.placeCommand v).schedule = .completion :: s.schedule := rfl
@[simp] theorem placeCommand_response (v : Word) : (s.placeCommand v).response = s.response := rfl
@[simp] theorem placeCommand_draws (v : Word) : (s.placeCommand v).draws = s.draws := rfl

/-! ### `State.composeWith` -/

@[simp] theorem composeWith_cmd (b : Mat3 F32) : (s.composeWith b).cmd = s.cmd := rfl
@[simp] theorem composeWith_status (b : Mat3 F32) : (s.composeWith b).status = statusAfterCompletion s.status true false false := rfl
@[simp] theorem composeWith_ctrl (b : Mat3 F32) : (s.composeWith b).ctrl = s.ctrl := rfl
@[simp] theorem composeWith_rc (b : Mat3 F32) : (s.composeWith b).rc = u32 0 := rfl
@[simp] theorem composeWith_mat (b : Mat3 F32) : (s.composeWith b).mat = matrixWords s.draws (matMul s.matrix b) := rfl
@[simp] theorem composeWith_opm (b : Mat3 F32) : (s.composeWith b).opm = s.opm := rfl
@[simp] theorem composeWith_opa (b : Mat3 F32) : (s.composeWith b).opa = s.opa := rfl
@[simp] theorem composeWith_opb (b : Mat3 F32) : (s.composeWith b).opb = s.opb := rfl
@[simp] theorem composeWith_deg (b : Mat3 F32) : (s.composeWith b).deg = s.deg := rfl
@[simp] theorem composeWith_srcpt (b : Mat3 F32) : (s.composeWith b).srcpt = s.srcpt := rfl
@[simp] theorem composeWith_dstpt (b : Mat3 F32) : (s.composeWith b).dstpt = s.dstpt := rfl
@[simp] theorem composeWith_recta (b : Mat3 F32) : (s.composeWith b).recta = s.recta := rfl
@[simp] theorem composeWith_rectb (b : Mat3 F32) : (s.composeWith b).rectb = s.rectb := rfl
@[simp] theorem composeWith_bufw (b : Mat3 F32) : (s.composeWith b).bufw = s.bufw := rfl
@[simp] theorem composeWith_bufh (b : Mat3 F32) : (s.composeWith b).bufh = s.bufh := rfl
@[simp] theorem composeWith_recto (b : Mat3 F32) : (s.composeWith b).recto = s.recto := rfl
@[simp] theorem composeWith_comp (b : Mat3 F32) : (s.composeWith b).comp = s.comp := rfl
@[simp] theorem composeWith_latched (b : Mat3 F32) : (s.composeWith b).latched = none := rfl
@[simp] theorem composeWith_schedule (b : Mat3 F32) : (s.composeWith b).schedule = s.schedule := rfl
@[simp] theorem composeWith_response (b : Mat3 F32) : (s.composeWith b).response = s.response := rfl
@[simp] theorem composeWith_draws (b : Mat3 F32) : (s.composeWith b).draws = s.draws + 9 := rfl

/-! ### `State.afterEvent` -/

@[simp] theorem afterEvent_cmd : s.afterEvent.cmd = s.cmd := rfl
@[simp] theorem afterEvent_status : s.afterEvent.status = s.status := rfl
@[simp] theorem afterEvent_ctrl : s.afterEvent.ctrl = s.ctrl := rfl
@[simp] theorem afterEvent_rc : s.afterEvent.rc = s.rc := rfl
@[simp] theorem afterEvent_mat : s.afterEvent.mat = s.mat := rfl
@[simp] theorem afterEvent_opm : s.afterEvent.opm = s.opm := rfl
@[simp] theorem afterEvent_opa : s.afterEvent.opa = s.opa := rfl
@[simp] theorem afterEvent_opb : s.afterEvent.opb = s.opb := rfl
@[simp] theorem afterEvent_deg : s.afterEvent.deg = s.deg := rfl
@[simp] theorem afterEvent_srcpt : s.afterEvent.srcpt = s.srcpt := rfl
@[simp] theorem afterEvent_dstpt : s.afterEvent.dstpt = s.dstpt := rfl
@[simp] theorem afterEvent_recta : s.afterEvent.recta = s.recta := rfl
@[simp] theorem afterEvent_rectb : s.afterEvent.rectb = s.rectb := rfl
@[simp] theorem afterEvent_bufw : s.afterEvent.bufw = s.bufw := rfl
@[simp] theorem afterEvent_bufh : s.afterEvent.bufh = s.bufh := rfl
@[simp] theorem afterEvent_recto : s.afterEvent.recto = s.recto := rfl
@[simp] theorem afterEvent_comp : s.afterEvent.comp = s.comp := rfl
@[simp] theorem afterEvent_latched : s.afterEvent.latched = s.latched := rfl
@[simp] theorem afterEvent_schedule : s.afterEvent.schedule = s.schedule.tail := rfl
@[simp] theorem afterEvent_response : s.afterEvent.response = s.response := rfl
@[simp] theorem afterEvent_draws : s.afterEvent.draws = s.draws := rfl

/-! ### `State.writeData` -/

@[simp] theorem writeData_cmd (r : Reg) (v : Word) : (s.writeData r v).cmd = s.cmd := by
  cases r <;> rfl
@[simp] theorem writeData_status (r : Reg) (v : Word) : (s.writeData r v).status = s.status := by
  cases r <;> rfl
@[simp] theorem writeData_ctrl (r : Reg) (v : Word) : (s.writeData r v).ctrl = s.ctrl := by
  cases r <;> rfl
@[simp] theorem writeData_rc (r : Reg) (v : Word) : (s.writeData r v).rc = s.rc := by
  cases r <;> rfl
@[simp] theorem writeData_recto (r : Reg) (v : Word) : (s.writeData r v).recto = s.recto := by
  cases r <;> rfl
@[simp] theorem writeData_comp (r : Reg) (v : Word) : (s.writeData r v).comp = s.comp := by
  cases r <;> rfl
@[simp] theorem writeData_latched (r : Reg) (v : Word) : (s.writeData r v).latched = s.latched := by
  cases r <;> rfl
@[simp] theorem writeData_schedule (r : Reg) (v : Word) : (s.writeData r v).schedule = s.schedule := by
  cases r <;> rfl
@[simp] theorem writeData_response (r : Reg) (v : Word) : (s.writeData r v).response = s.response := by
  cases r <;> rfl
@[simp] theorem writeData_draws (r : Reg) (v : Word) : (s.writeData r v).draws = s.draws := by
  cases r <;> rfl

/-! ### The flags, through their accessors -/

@[simp] theorem writeMatrix_busy (t : Mat3 F32) : (s.writeMatrix t).busy = s.busy := rfl
@[simp] theorem writeMatrix_done (t : Mat3 F32) : (s.writeMatrix t).done = s.done := rfl
@[simp] theorem writeMatrix_ok (t : Mat3 F32) : (s.writeMatrix t).ok = s.ok := rfl
@[simp] theorem writeMatrix_ill (t : Mat3 F32) : (s.writeMatrix t).ill = s.ill := rfl
@[simp] theorem writeMatrix_qovf (t : Mat3 F32) : (s.writeMatrix t).qovf = s.qovf := rfl
@[simp] theorem writeMatrix_ie (t : Mat3 F32) : (s.writeMatrix t).ie = s.ie := rfl

@[simp] theorem writeRectO_busy (a b c d : Int) : (s.writeRectO a b c d).busy = s.busy := rfl
@[simp] theorem writeRectO_done (a b c d : Int) : (s.writeRectO a b c d).done = s.done := rfl
@[simp] theorem writeRectO_ok (a b c d : Int) : (s.writeRectO a b c d).ok = s.ok := rfl
@[simp] theorem writeRectO_ill (a b c d : Int) : (s.writeRectO a b c d).ill = s.ill := rfl
@[simp] theorem writeRectO_qovf (a b c d : Int) : (s.writeRectO a b c d).qovf = s.qovf := rfl
@[simp] theorem writeRectO_ie (a b c d : Int) : (s.writeRectO a b c d).ie = s.ie := rfl

@[simp] theorem writeData_busy (r : Reg) (v : Word) : (s.writeData r v).busy = s.busy := by
  simp [State.busy]
@[simp] theorem writeData_done (r : Reg) (v : Word) : (s.writeData r v).done = s.done := by
  simp [State.done]
@[simp] theorem writeData_ok (r : Reg) (v : Word) : (s.writeData r v).ok = s.ok := by
  simp [State.ok]
@[simp] theorem writeData_ill (r : Reg) (v : Word) : (s.writeData r v).ill = s.ill := by
  simp [State.ill]
@[simp] theorem writeData_qovf (r : Reg) (v : Word) : (s.writeData r v).qovf = s.qovf := by
  simp [State.qovf]
@[simp] theorem writeData_ie (r : Reg) (v : Word) : (s.writeData r v).ie = s.ie := by
  simp [State.ie]

@[simp] theorem accept_busy (v : Word) : (s.accept v).busy = true := busyBit_accept _
@[simp] theorem accept_done (v : Word) : (s.accept v).done = false := doneBit_accept _
@[simp] theorem accept_ok (v : Word) : (s.accept v).ok = false := okBit_accept _
@[simp] theorem accept_ill (v : Word) : (s.accept v).ill = s.ill := illBit_accept _
@[simp] theorem accept_qovf (v : Word) : (s.accept v).qovf = s.qovf := qovfBit_accept _
@[simp] theorem accept_ie (v : Word) : (s.accept v).ie = s.ie := rfl

@[simp] theorem finish_busy (ok : Bool) (code : Int) (i q : Bool) : (s.finish ok code i q).busy = false := busyBit_completion ..
@[simp] theorem finish_done (ok : Bool) (code : Int) (i q : Bool) : (s.finish ok code i q).done = true := doneBit_completion ..
@[simp] theorem finish_ok (ok : Bool) (code : Int) (i q : Bool) : (s.finish ok code i q).ok = ok := okBit_completion ..
@[simp] theorem finish_ill (ok : Bool) (code : Int) (i q : Bool) : (s.finish ok code i q).ill = (s.ill || i) := illBit_completion ..
@[simp] theorem finish_qovf (ok : Bool) (code : Int) (i q : Bool) : (s.finish ok code i q).qovf = (s.qovf || q) := qovfBit_completion ..
@[simp] theorem finish_ie (ok : Bool) (code : Int) (i q : Bool) : (s.finish ok code i q).ie = s.ie := rfl

@[simp] theorem succeed_busy : (s.succeed).busy = false := by simp [State.succeed]
@[simp] theorem succeed_done : (s.succeed).done = true := by simp [State.succeed]
@[simp] theorem succeed_ok : (s.succeed).ok = true := by simp [State.succeed]
@[simp] theorem succeed_ill : (s.succeed).ill = s.ill := by simp [State.succeed]
@[simp] theorem succeed_qovf : (s.succeed).qovf = s.qovf := by simp [State.succeed]
@[simp] theorem succeed_ie : (s.succeed).ie = s.ie := rfl

@[simp] theorem fail_busy (code : Int) : (s.fail code).busy = false := by simp [State.fail]
@[simp] theorem fail_done (code : Int) : (s.fail code).done = true := by simp [State.fail]
@[simp] theorem fail_ok (code : Int) : (s.fail code).ok = false := by simp [State.fail]
@[simp] theorem fail_ill (code : Int) : (s.fail code).ill = s.ill := by simp [State.fail]
@[simp] theorem fail_qovf (code : Int) : (s.fail code).qovf = s.qovf := by simp [State.fail]
@[simp] theorem fail_ie (code : Int) : (s.fail code).ie = s.ie := rfl

@[simp] theorem completeIllegal_busy : (s.completeIllegal).busy = false := by simp [State.completeIllegal]
@[simp] theorem completeIllegal_done : (s.completeIllegal).done = true := by simp [State.completeIllegal]
@[simp] theorem completeIllegal_ok : (s.completeIllegal).ok = false := by simp [State.completeIllegal]
@[simp] theorem completeIllegal_ill : (s.completeIllegal).ill = true := by simp [State.completeIllegal]
@[simp] theorem completeIllegal_qovf : (s.completeIllegal).qovf = s.qovf := by simp [State.completeIllegal]
@[simp] theorem completeIllegal_ie : (s.completeIllegal).ie = s.ie := rfl

@[simp] theorem composeWith_busy (b : Mat3 F32) : (s.composeWith b).busy = false := by simp [State.composeWith]
@[simp] theorem composeWith_done (b : Mat3 F32) : (s.composeWith b).done = true := by simp [State.composeWith]
@[simp] theorem composeWith_ok (b : Mat3 F32) : (s.composeWith b).ok = true := by simp [State.composeWith]
@[simp] theorem composeWith_ill (b : Mat3 F32) : (s.composeWith b).ill = s.ill := by simp [State.composeWith]
@[simp] theorem composeWith_qovf (b : Mat3 F32) : (s.composeWith b).qovf = s.qovf := by simp [State.composeWith]
@[simp] theorem composeWith_ie (b : Mat3 F32) : (s.composeWith b).ie = s.ie := rfl

@[simp] theorem afterReset_busy : s.afterReset.busy = false := (by decide : busyBit 0 = false)
@[simp] theorem afterReset_done : s.afterReset.done = false := (by decide : doneBit 0 = false)
@[simp] theorem afterReset_ok : s.afterReset.ok = false := (by decide : okBit 0 = false)
@[simp] theorem afterReset_ill : s.afterReset.ill = false := (by decide : illBit 0 = false)
@[simp] theorem afterReset_qovf : s.afterReset.qovf = false := (by decide : qovfBit 0 = false)
@[simp] theorem afterReset_ie : s.afterReset.ie = false := (by decide : ieBit 0 = false)

@[simp] theorem placeCommand_busy (v : Word) : (s.placeCommand v).busy = true := busyBit_accept _
@[simp] theorem placeCommand_done (v : Word) : (s.placeCommand v).done = false := doneBit_accept _
@[simp] theorem placeCommand_ok (v : Word) : (s.placeCommand v).ok = false := okBit_accept _
@[simp] theorem placeCommand_ill (v : Word) : (s.placeCommand v).ill = s.ill := illBit_accept _
@[simp] theorem placeCommand_qovf (v : Word) : (s.placeCommand v).qovf = s.qovf := qovfBit_accept _

@[simp] theorem afterEvent_busy : s.afterEvent.busy = s.busy := rfl
@[simp] theorem afterEvent_done : s.afterEvent.done = s.done := rfl
@[simp] theorem afterEvent_ok : s.afterEvent.ok = s.ok := rfl
@[simp] theorem afterEvent_ill : s.afterEvent.ill = s.ill := rfl
@[simp] theorem afterEvent_qovf : s.afterEvent.qovf = s.qovf := rfl
@[simp] theorem afterEvent_ie : s.afterEvent.ie = s.ie := rfl

end Sys2Proof.Machine
end

