-- ==== Sys2Proof/Laws/Step.lean ====
section
/-! SUPPORT. What one step does for each event that can come next, said once. -/

namespace Sys2Proof.Machine

variable (s : State)

/-- A scheduled access is the next step. -/
theorem step_access (a : Access) : step (s.withEvent (.access a)) = s.hostAccess a := rfl

/-- A scheduled read of an admitted offset. -/
theorem step_readAt {off : Nat} (h : off < 0x200) (h4 : off % 4 = 0) :
    step (s.withEvent (readAt off)) = .next (s.hostRead off) := hostAccess_read s h h4

/-- A scheduled write of an admitted offset. -/
theorem step_writeAt {off : Nat} (v : Word) (h : off < 0x200) (h4 : off % 4 = 0) :
    step (s.withEvent (writeAt off v)) = s.hostWrite off v := hostAccess_write s v h h4

/-- A scheduled reset is the next step. -/
theorem step_reset : step (s.withEvent .reset) = .next s.afterReset := rfl

/-- The block's own step, whether it is scheduled or nothing is. -/
theorem step_of_blockMovesNext {s : State} (h : s.BlockMovesNext) : step s = s.afterEvent.completeLatched := by
  obtain ⟨hb, hs | ⟨es, hs⟩⟩ := h
  · have : s.afterEvent = s := by
      unfold State.afterEvent
      rw [hs, List.tail_nil, ← hs]
    rw [this, step, State.advance, hs, State.blockTurn, if_pos hb]
  · have : s.afterEvent = { s with schedule := es } := by
      unfold State.afterEvent
      rw [hs, List.tail_cons]
    rw [this, step, State.advance, hs]
    exact if_pos hb

/-- A step that answers a next state: the block's completion, nothing while Idle, an access, or a reset. -/
theorem step_next {s t : State} (h : step s = .next t) :
    (s.BlockMovesNext ∧ s.afterEvent.completeLatched = .next t) ∨
    (s.busy = false ∧ t = s.afterEvent) ∨
    (∃ a es, s.schedule = .access a :: es ∧ s.afterEvent.hostAccess a = .next t) ∨
    (∃ es, s.schedule = .reset :: es ∧ t = s.afterEvent.afterReset) := by
  rcases advance_next h with ⟨hs, h⟩ | ⟨es, hs, h⟩ | ⟨a, es, hs, h⟩ | ⟨es, hs, rfl⟩
  · have he : s.afterEvent = s := by
      unfold State.afterEvent
      rw [hs, List.tail_nil, ← hs]
    rw [he]
    rcases blockTurn_next h with ⟨hb, ht⟩ | ⟨hb, h⟩
    · exact .inr (.inl ⟨hb, ht⟩)
    · exact .inl ⟨⟨hb, .inl hs⟩, h⟩
  · have he : s.afterEvent = { s with schedule := es } := by
      unfold State.afterEvent
      rw [hs, List.tail_cons]
    rw [he]
    rcases blockTurn_next h with ⟨hb, ht⟩ | ⟨hb, h⟩
    · exact .inr (.inl ⟨hb, ht⟩)
    · exact .inl ⟨⟨hb, .inr ⟨es, hs⟩⟩, h⟩
  · exact .inr (.inr (.inl ⟨a, es, hs, by rw [State.afterEvent, hs]; exact h⟩))
  · exact .inr (.inr (.inr ⟨es, hs, by rw [State.afterEvent, hs]; rfl⟩))

end Sys2Proof.Machine
end

