-- ==== Sys2Proof/Tests/Slice0.lean ====
section
/-! SUPPORT. Tests of the model against the vectors of `spec/95_test_vectors.md`, and for every statement with hypotheses a
concrete state and operands that meet them. -/

namespace Sys2Proof.Tests

open Sys2Proof.Machine

/-! ### Helpers -/

/-- The next state, where there is one. -/
def nextOf : Host.Outcome State Fault Refusal → Option State
  | .next s => some s
  | .fault _ => none
  | .refused _ => none

/-- The identity as words. -/
def unitMat : Mat3 Word := ⟨0x3F800000, 0, 0, 0, 0x3F800000, 0, 0, 0, 0x3F800000⟩

/-- (2,1,3, 0,4,5, 0,0,1). -/
def sampleMat : Mat3 Word :=
  ⟨0x40000000, 0x3F800000, 0x40400000, 0, 0x40800000, 0x40A00000, 0, 0, 0x3F800000⟩

/-- The rotation by 30 degrees of V-MAT-10. -/
def rot30 : Mat3 Word := ⟨0x3F5DB3BB, 0xBEFFFE00, 0, 0x3EFFFE00, 0x3F5DB3BB, 0, 0, 0, 0x3F800000⟩

/-- The unit square `Q` of 2.3. -/
def unitSquare : Quad (Point Word) := ⟨⟨0, 0⟩, ⟨0x3F800000, 0⟩, ⟨0x3F800000, 0x3F800000⟩, ⟨0, 0x3F800000⟩⟩

/-- (0,0),(1,1),(2,2),(3,3). -/
def collinear : Quad (Point Word) :=
  ⟨⟨0, 0⟩, ⟨0x3F800000, 0x3F800000⟩, ⟨0x40000000, 0x40000000⟩, ⟨0x40400000, 0x40400000⟩⟩

/-- A rectangle of four integers. -/
def quadOf (a b c d : Int) : Quad Word := ⟨u32 a, u32 b, u32 c, u32 d⟩

/-- The reset state with a matrix. -/
def withMat (m : Mat3 Word) : State := { State.reset with mat := m }

/-- The reset state set up for MSOLVE. -/
def solving (src dst : Quad (Point Word)) : State := { withMat sampleMat with srcpt := src, dstpt := dst }

/-- The reset state set up for AREA. -/
def projecting (r : Quad Word) (m : Mat3 Word) (w h : Int) : State :=
  { withMat m with recta := r, bufw := u32 w, bufh := u32 h }

/-- The reset state set up for RISECT. -/
def crossing (a b : Quad Word) : State := { State.reset with recta := a, rectb := b }

/-- `MAT` after a command. -/
def matAfter (i : Instr) (s : State) : Option (Mat3 Word) := (nextOf (exec i s)).map (·.mat)

/-- `STATUS` and `RC` after a command. -/
def outcomeAfter (i : Instr) (s : State) : Option (Word × Word) := (nextOf (exec i s)).map fun t => (t.status, t.rc)

/-- `RECTO` after a command. -/
def rectAfter (i : Instr) (s : State) : Option (Quad Word) := (nextOf (exec i s)).map (·.recto)

/-- `COMP` after a command. -/
def compAfter (i : Instr) (s : State) : Option (Mat3 Word) := (nextOf (exec i s)).map (·.comp)

/-! ### Decoding: words written out from the format of R80 and the opcode map of R84 -/

theorem test_decode_mident : decode 0b000000000000000000000000_00000001 = .command .mident := by decide

theorem test_decode_mmul : decode 0b000000000000000000000000_00000010 = .command .mmul := by decide

theorem test_decode_mtrans : decode 0b000000000000000000000000_00000011 = .command .mtrans := by decide

theorem test_decode_mscale : decode 0b000000000000000000000000_00000100 = .command .mscale := by decide

theorem test_decode_mrot : decode 0b000000000000000000000000_00000101 = .command .mrot := by decide

theorem test_decode_mpersp : decode 0b000000000000000000000000_00000110 = .command .mpersp := by decide

theorem test_decode_minv : decode 0b000000000000000000000000_00000111 = .command .minv := by decide

theorem test_decode_mchkinv : decode 0b000000000000000000000000_00001000 = .command .mchkinv := by decide

theorem test_decode_msolve : decode 0b000000000000000000000000_00001001 = .command .msolve := by decide

theorem test_decode_qenc : decode 0b000000000000000000000000_00010000 = .command .qenc := by decide

theorem test_decode_area : decode 0b000000000000000000000000_00100000 = .command .area := by decide

theorem test_decode_risect : decode 0b000000000000000000000000_00100001 = .command .risect := by decide

/-- V-CTL-9 and V-CTL-10: words that encode no command. -/
theorem test_illegal_words : decode 0x00000101 = .illegal .zeroField ∧ decode 0x80000001 = .illegal .zeroField ∧
    ∀ op ∈ [0x00, 0x0A, 0x0F, 0x11, 0x1F, 0x22, 0x2F, 0x30, 0xFF], decode (BitVec.ofNat 32 op) =
      .illegal (.opcode (BitVec.ofNat 8 op)) := by decide

/-- The command table's numbering: a set bit above the opcode is read, and no row is longer than 32 bits (R80). -/
theorem test_table_word : decodeTableWord 32 0x21 = some .risect ∧ decodeTableWord 32 0x121 = none ∧
    decodeTableWord 64 0x21 = none := by decide

/-! ### Well-formedness: an ill-formed term for each check -/

/-- Every command is well formed (R81). -/
theorem test_wellFormed : ∀ i ∈ [Instr.mident, .mmul, .mtrans, .mscale, .mrot, .mpersp, .minv, .mchkinv, .msolve, .qenc,
    .area, .risect], i.wellFormed = true := by decide

/-- A word with a set bit in bits 31:8 is not of format `C` (R80). -/
theorem test_zero_field : zeroFieldClear 0x00000100 = false ∧ zeroFieldClear 0x80000001 = false ∧
    zeroFieldClear 0x000000FF = true := by decide

/-- V-CTL-16 and R51: an access outside the block, one of 16 bits, and a misaligned one are not admitted. -/
theorem test_not_admitted : (Access.read (Config.base + 0x200) 4).inBlock = false ∧
    (Access.write (Config.base + 0x010) 2 0).wordWide = false ∧ (Access.read (Config.base + 0x012) 4).aligned = false ∧
    (Access.read (Config.base + 0x200) 4).admitted = false ∧ (Access.write (Config.base + 0x010) 2 0).admitted = false ∧
    (Access.read (Config.base + 0x012) 4).admitted = false ∧ (Access.read (Config.base + 0x1FC) 4).admitted = true := by
  have hb := base_mod_four
  have h1 : (Config.base + 18) % 4 ≠ 0 := by omega
  have h2 : (Config.base + 508) % 4 = 0 := by rw [Nat.add_mod, hb]
  simp [Access.admitted, Access.inBlock, Access.wordWide, Access.aligned, Access.addr, Access.bytes, h1, h2]

/-! ### Commands -/

/-- V-MAT-1, run by the step as the first command after reset. -/
theorem test_mident : (nextOf (step (State.reset.withFetchWord 32 0x01))).map (fun t => (t.mat, t.status, t.rc)) =
    some (unitMat, 0x06, 0) := by decide +kernel

/-- V-MAT-2. -/
theorem test_mmul : matAfter .mmul { withMat ⟨0x3F800000, 0x40000000, 0x40400000, 0x40800000, 0x40A00000, 0x40C00000,
    0x40E00000, 0x41000000, 0x41100000⟩ with opm := ⟨0x41100000, 0x41000000, 0x40E00000, 0x40C00000, 0x40A00000,
    0x40800000, 0x40400000, 0x40000000, 0x3F800000⟩ } = some ⟨0x41F00000, 0x41C00000, 0x41900000, 0x42A80000,
    0x428A0000, 0x42580000, 0x430A0000, 0x42E40000, 0x42B40000⟩ := by decide +kernel

/-- V-MAT-3: infinity times zero is a NaN, and the rows without it are kept. -/
theorem test_mmul_nan : (nextOf (exec .mmul { withMat ⟨0x7F800000, 0x3F800000, 0x40000000, 0x40400000, 0x40800000,
    0x40A00000, 0x40C00000, 0x40E00000, 0x41000000⟩ with opm := unitMat })).map
      (fun t => (t.mat.m00, t.mat.m10, (t.mat.map F32.ofWord).m01)) = some (0x7F800000, 0x40400000, .nan) := by
  rw [exec_mmul]
  simp only [nextOf, Option.map_some, composeWith_mat, Option.some.injEq, Prod.mk.injEq]
  exact ⟨by decide +kernel, by decide +kernel, ofWord_nanWord _⟩

/-- V-MAT-4. -/
theorem test_mtrans : matAfter .mtrans { withMat sampleMat with opa := 0x3FC00000, opb := 0xC0000000 } =
    some ⟨0x40000000, 0x3F800000, 0x40800000, 0, 0x40800000, 0xC0400000, 0, 0, 0x3F800000⟩ := by decide +kernel

/-- V-MAT-5. -/
theorem test_mscale : matAfter .mscale { withMat sampleMat with opa := 0x3F000000, opb := 0xBF800000 } =
    some ⟨0x3F800000, 0xBF800000, 0x40400000, 0, 0xC0800000, 0x40A00000, 0, 0, 0x3F800000⟩ := by decide +kernel

/-- V-MAT-8. -/
theorem test_mrot : matAfter .mrot { withMat sampleMat with deg := 30 } =
    some ⟨0x400ED99E, 0xBE092914, 0x40400000, 0x3FFFFE00, 0x405DB3BB, 0x40A00000, 0, 0, 0x3F800000⟩ := by decide +kernel

/-- V-TRIG-18: the most negative angle. -/
theorem test_mrot_angle : mod360 (-2147483648) = 232 ∧ isin (-2147483648) = -25821 ∧ icos (-2147483648) = -20173 := by
  decide

/-- V-MAT-6. -/
theorem test_mpersp : matAfter .mpersp { withMat sampleMat with opa := 0x3E800000, opb := 0x3F000000 } =
    some ⟨0x40300000, 0x40200000, 0x40400000, 0x3FA00000, 0x40D00000, 0x40A00000, 0x3E800000, 0x3F000000, 0x3F800000⟩ := by
  decide +kernel

/-- V-MAT-16. -/
theorem test_minv : matAfter .minv (withMat ⟨0x3F800000, 0x40000000, 0x40400000, 0, 0x3F800000, 0x40800000, 0x40A00000,
    0x40C00000, 0⟩) = some ⟨0xC1C00000, 0x41900000, 0x40A00000, 0x41A00000, 0xC1700000, 0xC0800000, 0xC0A00000,
    0x40800000, 0x3F800000⟩ := by decide +kernel

/-- V-MAT-18: two of the zeros are negative. -/
theorem test_minv_zero_signs : matAfter .minv (withMat ⟨0, 0xBF800000, 0x41A00000, 0x3F800000, 0, 0, 0, 0, 0x3F800000⟩) =
    some ⟨0, 0x3F800000, 0x80000000, 0xBF800000, 0, 0x41A00000, 0, 0x80000000, 0x3F800000⟩ := by decide +kernel

/-- V-MAT-22. -/
theorem test_mchkinv : matAfter .mchkinv State.reset = some (.all9 0) ∧
    outcomeAfter .mchkinv State.reset = some (0x06, 0) := by decide

/-- V-SOLVE-12. -/
theorem test_msolve : matAfter .msolve (solving
    ⟨⟨0, 0⟩, ⟨0x42C80000, 0⟩, ⟨0x42C80000, 0x42480000⟩, ⟨0, 0x42480000⟩⟩
    ⟨⟨0x41200000, 0x41200000⟩, ⟨0x42B40000, 0x41A00000⟩, ⟨0x42A00000, 0x428C0000⟩, ⟨0x41A00000, 0x42700000⟩⟩) =
    some ⟨0x3F3DEF7C, 0x3EA876EC, 0x41200000, 0x3DB25FCC, 0x3FB18C63, 0x41200000, 0xBA29200B, 0x3BD3680D, 0x3F800000⟩ := by
  decide +kernel

/-- V-SOLVE-6: `MAT` is left as it was. -/
theorem test_msolve_fails : matAfter .msolve (solving collinear unitSquare) = some sampleMat ∧
    outcomeAfter .msolve (solving collinear unitSquare) = some (0x02, 0xFFFFFFFF) := by decide +kernel

/-- V-QENC-4. -/
theorem test_qenc : compAfter .qenc (withMat rot30) =
    some ⟨0x0000DDB3, 0xFFFF8001, 0, 0x00007FFF, 0x0000DDB3, 0, 0, 0, 0x00010000⟩ ∧
    outcomeAfter .qenc (withMat rot30) = some (0x06, 0) := by decide +kernel

/-- V-QENC-8: the element wraps and `QOVF` is set. -/
theorem test_qenc_overflow : compAfter .qenc (withMat { unitMat with m00 := 0x471C4000 }) =
    some ⟨0x9C400000, 0, 0, 0, 0x00010000, 0, 0, 0, 0x00010000⟩ ∧
    outcomeAfter .qenc (withMat { unitMat with m00 := 0x471C4000 }) = some (0x16, 0) := by decide +kernel

/-- S7, the clamped edge. -/
theorem test_area : rectAfter .area (projecting (quadOf 0 0 10 10)
    ⟨0x3F800000, 0, 0x42BE0000, 0, 0x3F800000, 0xC0400000, 0, 0, 0x3F800000⟩ 100 100) = some (quadOf 95 0 5 7) := by
  decide +kernel

/-- V-AREA-7: infinite coordinates. -/
theorem test_area_non_finite : outcomeAfter .area (projecting (quadOf 0 0 10 10)
    ⟨0x3F800000, 0, 0x3F800000, 0, 0x3F800000, 0x3F800000, 0, 0, 0⟩ 100 100) = some (0x02, 2) := by decide +kernel

/-- V-RI-4. -/
theorem test_risect : rectAfter .risect (crossing (quadOf (-5) (-5) 5 5) (quadOf (-10) 0 0 10)) =
    some (quadOf (-5) 0 0 5) := by decide

/-- V-RI-2. -/
theorem test_risect_apart : outcomeAfter .risect (crossing (quadOf 0 0 9 9) (quadOf 10 0 19 9)) = some (0x02, 1) := by
  decide

/-! ### Control behaviour -/

/-- V-CTL-1. -/
theorem test_ctl_reads_after_reset : [0x004, 0x008, 0x000, 0x034, 0x1FC].map (fun off => (State.reset.hostRead off).response)
    = List.replicate 5 (some (.data 0)) := by decide

/-- V-CTL-3. -/
theorem test_ctl_enable : (nextOf (State.reset.hostWrite 0x008 0xFFFFFFFF)).map (·.readReg .ctrl) = some 1 := by decide

/-- V-CTL-6. -/
theorem test_ctl_clear : (nextOf ({ State.reset with status := 0x1E }.hostWrite 0x004 0xFFFFFFFF)).map (·.readReg .status) =
    some 0x04 := by decide

/-- V-CTL-7. -/
theorem test_ctl_accept : (nextOf ({ State.reset with status := 0x1E }.hostWrite 0x000 1)).map (·.readReg .status) =
    some 0x19 := by decide

/-- V-CTL-9. -/
theorem test_ctl_illegal : (nextOf (step (State.reset.withFetchWord 32 0x101))).map
    (fun t => (t.readReg .status, t.readReg .rc, t.readReg .cmd)) = some (0x0A, 0xFFFFFFFE, 0x101) := by decide

/-- V-CTL-15. -/
theorem test_ctl_irq : (nextOf ({ State.reset with status := 0x06, ctrl := 1 }.hostWrite 0x004 2)).map
    (fun t => (t.status, t.irq)) = some (0x04, false) := by decide

/-! ### The host of R191 -/

/-- How a host's run ends. -/
def endOf : Host.Outcome (State × BlitEnd) Fault Refusal → Option BlitEnd
  | .next r => some r.2
  | .fault _ => none
  | .refused _ => none

/-- `RUN mnemonic` as lines. -/
def runLines (i : Instr) : List HostLine := [.write .cmd (encode i), .completion, .read .status]

/-- MIDENT and MTRANS as lines. -/
def translateLines (x y : Word) : List HostLine := runLines .mident ++ [.write .opa x, .write .opb y] ++ runLines .mtrans

/-- AREA of {0,0,10,10} on 100×100 as lines. -/
def projectLines : List HostLine :=
  [.write (.rectA 0) 0, .write (.rectA 1) 0, .write (.rectA 2) 10, .write (.rectA 3) 10, .write .bufW 100, .write .bufH 100] ++
    runLines .area ++ [.read .status]

theorem test_project_lines : projectRect ⟨0, 0, 10, 10⟩ 100 100 = projectLines.map HostLine.event := rfl

/-- The sources `collinear`, the destinations `unitSquare`, and MSOLVE, as lines. -/
def pointLines : List HostLine :=
  fourIndices.flatMap (fun i => [.write (.srcX i) (collinear.get i).x, .write (.srcY i) (collinear.get i).y]) ++
    fourIndices.flatMap (fun i => [.write (.dstX i) (unitSquare.get i).x, .write (.dstY i) (unitSquare.get i).y]) ++
    runLines .msolve

theorem test_points_lines : buildForward (.points collinear unitSquare) = pointLines.map HostLine.event := rfl

theorem test_translate_lines (x y : Word) :
    buildForward (.steps [.translate x y]) = (translateLines x y).map HostLine.event := rfl

theorem test_result_lines : readRect = (fourIndices.map fun k => HostLine.read (.rectO k)).map HostLine.event ∧
    encodeForward = (runLines .minv ++ runLines .qenc ++ [HostLine.read .status]).map HostLine.event ∧
    readComp = (nineIndices.map fun k => HostLine.read (.comp k)).map HostLine.event := ⟨rfl, rfl, rfl⟩

/-- P1: the parameters of a blit under a translation by (5, 5). -/
theorem test_blit_parameters : endOf (hostBlit (.steps [.translate 0x40A00000 0x40A00000]) ⟨0, 0, 10, 10⟩ 100 100 State.reset) =
    some (.parameters [5, 5, 10, 10] 0x06 [0x00010000, 0, 0xFFFB0000, 0, 0x00010000, 0xFFFB0000, 0, 0, 0x00010000]) := by
  simp only [hostBlit, finishBlit, test_project_lines, test_translate_lines, test_result_lines, hostRun_lines]
  decide +kernel

/-- P5: a blit that falls off the canvas stops after AREA. -/
theorem test_blit_noOp : endOf (hostBlit (.steps [.translate 0x43480000 0]) ⟨0, 0, 10, 10⟩ 100 100 State.reset) = some .noOp := by
  simp only [hostBlit, finishBlit, test_project_lines, test_translate_lines, test_result_lines, hostRun_lines]
  decide +kernel

/-- The four source points of R158 b: the solver fails and the host stops (R195). -/
theorem test_blit_invalidMatrix :
    endOf (hostBlit (.points collinear unitSquare) ⟨0, 0, 10, 10⟩ 100 100 State.reset) = some .invalidMatrix := by
  simp only [hostBlit, finishBlit, test_project_lines, test_points_lines, test_result_lines, hostRun_lines]
  decide +kernel

/-! ### Every statement's hypotheses are met -/

/-- The reset state with a command in flight and its completion scheduled. -/
def running (w : Word) : State := State.reset.placeCommand w

theorem test_running_moves (w : Word) : (running w).BlockMovesNext := ⟨by simp [running], .inr ⟨[], rfl⟩⟩

/-- The other way the block comes to move: nothing is scheduled. -/
theorem test_running_moves_unscheduled : (State.reset.accept 1).BlockMovesNext := ⟨by simp, .inl rfl⟩

theorem test_hyp_DecodeAndEncodeAgree : Instr.area.wellFormed = true ∧ decode 0x20 = .command .area ∧
    (0x20 : Word) = encode .area := by decide

theorem test_hyp_DecodingFollowsTheFields : (0x00000100 : Word).extractLsb' 8 24 ≠ 0 ∧
    ((0x00000021 : Word).extractLsb' 8 24 = 0 ∧ (0x00000021 : Word).extractLsb' 0 8 = opcode .risect) ∧
    ((0x00000022 : Word).extractLsb' 8 24 = 0 ∧ ∀ i : Instr, (0x00000022 : Word).extractLsb' 0 8 ≠ opcode i) := by
  exact ⟨by decide, by decide, by decide, fun i => by cases i <;> decide⟩

theorem test_hyp_ReservedOffsets : (∀ off ∈ [0x034, 0x03C, 0x064, 0x06C, 0x07C, 0x0E8, 0x0EC, 0x124, 0x1FC], reservedOffset off) ∧
    ∀ off ∈ [0x030, 0x040, 0x060, 0x070, 0x078, 0x080, 0x0E4, 0x0F0, 0x120, 0x200], ¬reservedOffset off := by
  unfold reservedOffset
  decide

/-- A read while Idle, one of `STATUS` while Running, and one of `MAT[0]` while Running. -/
theorem test_hyp_HostReads : State.reset.busy = false ∧ ((running 1).busy = true ∧ Reg.status = .status) ∧
    ((running 1).busy = true ∧ Reg.mat 0 ≠ .cmd ∧ Reg.mat 0 ≠ .status ∧ Reg.mat 0 ≠ .ctrl) := by decide

theorem test_hyp_DataWrite : (State.reset.busy = false ∧ (Reg.mat 0).writeKind = .data) ∧ Reg.comp 8 = .comp 8 := by decide

theorem test_hyp_CommandAcceptance : State.reset.busy = false := by decide

theorem test_hyp_WriteWhileRunning : (running 1).busy = true ∧ Reg.cmd.writeKind = .command ∧ (Reg.mat 0).writeKind = .data := by
  decide

/-- The last word of the block and the first address beyond it; a narrow and a misaligned access. -/
theorem test_hyp_NotAdmitted : Config.base + 0x200 ≤ (Access.read (Config.base + 0x200) 4).addr ∧
    (Config.base ≤ (Access.read Config.base 2).addr ∧ (Access.read Config.base 2).addr < Config.base + 0x200 ∧
      (Access.read Config.base 2).bytes ≠ 4) ∧
    (Config.base ≤ (Access.read (Config.base + 0x1FE) 4).addr ∧
      (Access.read (Config.base + 0x1FE) 4).addr < Config.base + 0x200 ∧ (Access.read (Config.base + 0x1FE) 4).bytes = 4 ∧
      (Access.read (Config.base + 0x1FE) 4).addr % 4 ≠ 0) ∧
    (Config.base ≤ (Access.read (Config.base + 0x1FC) 4).addr ∧
      (Access.read (Config.base + 0x1FC) 4).addr < Config.base + 0x200 ∧ (Access.read (Config.base + 0x1FC) 4).bytes = 4 ∧
      (Access.read (Config.base + 0x1FC) 4).addr % 4 = 0) := by
  have hb := base_mod_four
  have h1 : (Config.base + 510) % 4 ≠ 0 := by omega
  have h2 : (Config.base + 508) % 4 = 0 := by rw [Nat.add_mod, hb]
  simp [Access.addr, Access.bytes, h1, h2]

theorem test_hyp_ByteLanes : 0x1FC % 4 = 0 := by decide

theorem test_running_inv : (running 1).Inv :=
  ⟨by decide, by decide, by decide, by decide, by decide, by decide, ⟨0, by decide⟩, by decide⟩

theorem test_step_mident : step (running 1) = .next ({ State.reset.accept 1 with mat := identityWords }.succeed) := rfl

theorem test_hyp_StepKeepsInvariant : ∃ t, (running 1).Inv ∧ step (running 1) = .next t :=
  ⟨_, test_running_inv, test_step_mident⟩

theorem test_hyp_DutifulHost : (running 1).Inv ∧ (running 1).DutyKept :=
  ⟨test_running_inv, fun _ _ _ h => nomatch h⟩

theorem test_hyp_StepRunsDecodedCommand : (running 1).BlockMovesNext ∧ (running 1).latched = some 1 ∧
    decode 1 = .command .mident := ⟨test_running_moves 1, rfl, by decide⟩

theorem test_hyp_IllegalWord : State.reset.busy = false ∧ (running 0).BlockMovesNext ∧ (running 0).latched = some 0 ∧
    decode 0 = .illegal (.opcode 0) := ⟨by decide, test_running_moves 0, rfl, by decide⟩

theorem test_hyp_EveryCommandCompletes : (running 9).BlockMovesNext ∧ (running 9).latched = some 9 :=
  ⟨test_running_moves 9, rfl⟩

theorem test_hyp_BlockHasNoStep : State.reset.busy = false ∧ State.reset.schedule = [] := by decide

theorem test_hyp_Irq : ((running 1).BlockMovesNext ∧ (running 1).latched = some 1) ∧ (2 : Word).getLsbD 1 = true ∧
    State.reset.busy = false ∧ (2 : Word).getLsbD 0 = false :=
  ⟨⟨test_running_moves 1, rfl⟩, by decide, by decide, by decide⟩

/-- An illegal word sets `ILL`, QENC of a large element sets `QOVF`. -/
theorem test_hyp_StickyFlags_set : (∃ t, step (running 0) = .next t ∧ (running 0).ill = false ∧ t.ill = true) ∧
    ∃ t, step { running 0x10 with mat := { unitMat with m00 := 0x471C4000 } } = .next t ∧ (running 0x10).qovf = false ∧
      t.qovf = true :=
  ⟨⟨_, rfl, by decide, by decide⟩, ⟨_, rfl, by decide, by decide +kernel⟩⟩

/-- A written 1 clears each. -/
theorem test_hyp_StickyFlags_cleared : ∃ t, step ({ State.reset with status := 0x18 }.withEvent (writeAt 0x004 0x18)) = .next t ∧
    { State.reset with status := 0x18 }.ill = true ∧ t.ill = false ∧ { State.reset with status := 0x18 }.qovf = true ∧
    t.qovf = false :=
  ⟨_, step_writeAt _ _ (by decide) (by decide), by decide, by decide, by decide, by decide⟩

theorem test_hyp_RunStateChanges : (∃ t, step (State.reset.withEvent (writeAt 0x000 1)) = .next t ∧ State.reset.busy = false ∧
    t.busy = true) ∧ ∃ t, step (running 1) = .next t ∧ (running 1).busy = true ∧ t.busy = false :=
  ⟨⟨_, step_writeAt _ _ (by decide) (by decide), by decide, by decide⟩, ⟨_, rfl, by decide, by decide⟩⟩

theorem test_hyp_OperandsChange : ∃ t, step (State.reset.withEvent (writeAt 0x070 5)) = .next t ∧ Reg.opa.writeKind = .data ∧
    (∀ k, Reg.opa ≠ .mat k) ∧ t.readReg .opa ≠ State.reset.readReg .opa :=
  ⟨_, step_writeAt _ _ (by decide) (by decide), by decide, nofun, by decide⟩

theorem test_hyp_ResultsChange : ∃ t, step (running 0) = .next t ∧ Reg.rc.writeKind = .readOnly ∧
    t.readReg .rc ≠ (running 0).readReg .rc := ⟨_, rfl, by decide, by decide⟩

theorem test_hyp_RunningBlock : ∃ t, (running 1).busy = true ∧
    step ((running 1).withEvent (.access (.write (Config.base + 0x008) 4 1))) = .next t :=
  ⟨_, by decide, step_writeAt (running 1) 1 (off := 0x008) (by decide) (by decide)⟩

theorem test_hyp_CommandsWriteOnlyTheirSet : (∃ t, exec .mchkinv State.reset = .next t ∧ Reg.mat 0 ∉ writeSet .mchkinv) ∧
    ∃ t, exec .msolve (solving collinear unitSquare) = .next t ∧ t.ok = false :=
  ⟨⟨_, rfl, by decide⟩, ⟨_, exec_msolve_none (by decide +kernel), by decide⟩⟩

/-- Two states that differ outside the read set of RISECT. -/
theorem test_hyp_CommandsReadOnlyTheirSet : ∃ t₁ t₂, State.reset ≠ withMat unitMat ∧
    (∀ r ∈ readSet .risect, State.reset.readReg r = (withMat unitMat).readReg r) ∧
    State.reset.draws = (withMat unitMat).draws ∧ exec .risect State.reset = .next t₁ ∧
    exec .risect (withMat unitMat) = .next t₂ :=
  ⟨_, _, by decide, by decide, rfl, rfl, rfl⟩

/-- A tie: 2^24 + 1 lies half way between two numbers of 24 significant bits, and the even significand is taken. -/
theorem test_hyp_Rounding : 0 < 1 ∧ roundUnits (2 ^ 24 + 1) 1 = 2 ^ 24 ∧ 2 ^ spacingExp (2 ^ 24 + 2) ∣ 2 ^ 24 + 2 := by decide

/-- 1.0 and -1.0: a sum that is not zero, one that is, and a divisor that is not zero. -/
theorem test_hyp_FiniteArithmetic : (0x3F800000 : Word).extractLsb' 23 8 ≠ 255 ∧ (0xBF800000 : Word).extractLsb' 23 8 ≠ 255 ∧
    (F32.ofWord 0x3F800000).real + (F32.ofWord 0x3F800000).real ≠ 0 ∧
    (F32.ofWord 0x3F800000).real + (F32.ofWord 0xBF800000).real = 0 ∧ (F32.ofWord 0xBF800000).real ≠ 0 := by decide +kernel

/-- R104 and R103: 1.0 / 3.0 rounds up to 0x3EAAAAAB, and the square of the largest finite value overflows. -/
theorem test_quotient_and_overflow : (fdiv fone (F32.ofWord 0x40400000)).toWord 0 = 0x3EAAAAAB ∧
    fmul (F32.ofWord 0x7F7FFFFF) (F32.ofWord 0xFF7FFFFF) = .inf true := by decide +kernel

theorem test_hyp_Neutral : F32.ofWord 0xFF800000 ≠ .nan ∧ (F32.ofWord 1).isFinite = true ∧ (F32.ofWord 1).real ≠ 0 := by
  decide +kernel

theorem test_hyp_SmallIntegers : (-2 ^ 24 : Int) ≤ -2 ^ 24 ∧ (2 ^ 24 : Int) ≤ 2 ^ 24 := by decide

theorem test_hyp_DeliveredNan : ((0x7F800001 : Word).extractLsb' 23 8 = 255 ∧ (0x7F800001 : Word).extractLsb' 0 23 ≠ 0) ∧
    (0xFF800000 : Word).extractLsb' 23 8 = 255 ∧ (0xFF800000 : Word).extractLsb' 0 23 = 0 := by decide

/-- The smallest magnitude that is not zero. -/
theorem test_hyp_SpecialValues : (1 : Nat) ≠ 0 ∧ F32.fin true 1 ∈ [F32.fin true 1, .inf false] := by decide

theorem test_hyp_AngleReduction : 359 ≤ 359 ∧ (360 : Int) ∣ -1 - 359 := by decide

/-- A NaN in `MAT`, and V-MAT-20: a determinant of zero. -/
theorem test_hyp_MinvFailsSilently : (∃ t, exec .minv (withMat (.all9 0)) = .next t) ∧
    determinant (withMat (.all9 0)).matrix = .fin false 0 ∧ (withMat { unitMat with m00 := 0x7FC00000 }).matAt 0 0 = .nan :=
  ⟨⟨_, rfl⟩, by decide +kernel, by decide +kernel⟩

theorem test_hyp_IdentityProduct : (∀ k, (F32.ofWord (sampleMat.get k)).isFinite = true) ∧
    (∃ t, exec .mmul { withMat sampleMat with opm := unitMat } = .next t) ∧
    ∃ t, exec .mmul { withMat unitMat with opm := sampleMat } = .next t :=
  ⟨by decide +kernel, ⟨_, rfl⟩, ⟨_, rfl⟩⟩

theorem test_hyp_Pivot : 7 ≤ 7 ∧ 6 ≤ 7 := by decide

/-- The system of V-SOLVE-1 at step 0, and one whose first column is zero. -/
theorem test_hyp_EliminationStep :
    let a := assemble (unitSquare.map (Point.map F32.ofWord)) (unitSquare.map (Point.map F32.ofWord))
    let z := List.replicate 8 (List.replicate 9 fzero)
    (a.length = 8 ∧ (∀ row ∈ a, row.length = 9) ∧ flt (findPivot a 0).2 (F32.ofWord 0x34000000) = false) ∧
    (z.length = 8 ∧ (∀ row ∈ z, row.length = 9) ∧ flt (findPivot z 7).2 (F32.ofWord 0x34000000) = true) := by decide +kernel

theorem test_hyp_Msolve : (eliminate (assemble (solving collinear unitSquare).sourcePoints
      (solving collinear unitSquare).destPoints)).isNone = true ∧
    (eliminate (assemble (solving unitSquare unitSquare).sourcePoints (solving unitSquare unitSquare).destPoints)).isSome =
      true := by decide +kernel

theorem test_hyp_PointsOnTheDiagonal : (solving collinear unitSquare).srcpt =
    ⟨⟨0, 0⟩, ⟨0x3F800000, 0x3F800000⟩, ⟨0x40000000, 0x40000000⟩, ⟨0x40400000, 0x40400000⟩⟩ := by decide

/-- A finite element, and one of magnitude exactly 2^39. -/
theorem test_hyp_Qenc : (F32.ofWord ((withMat rot30).mat.get 0)).isFinite = true ∧ (F32.ofWord 0x53000000).isFinite = true ∧
    2 ^ 39 * 2 ^ 149 ≤ |(F32.ofWord 0x53000000).real| := by decide +kernel

/-- A success of AREA on a canvas with pixels: V-AREA-4; a failure on one without: row 17 of R184. -/
theorem test_hyp_Area : (∃ t, exec .area (projecting (quadOf 0 0 10 10) unitMat 1 1) = .next t ∧ t.ok = true) ∧
    ∃ t, exec .area (projecting (quadOf 0 0 10 10)
      { unitMat with m02 := 0xC0A00000 } 0 100) = .next t ∧ t.ok = false ∧ t.rc = 3 :=
  ⟨⟨_, rfl, by decide +kernel⟩, ⟨_, rfl, by decide +kernel, by decide +kernel⟩⟩

/-- A canvas without columns, and one with pixels. -/
theorem test_hyp_AreaNeedsACanvas : (projecting (quadOf 0 0 10 10) unitMat 0 100).bufw.toInt ≤ 0 ∧
    1 ≤ (projecting (quadOf 0 0 10 10) unitMat 1 1).bufw.toInt ∧ 1 ≤ (projecting (quadOf 0 0 10 10) unitMat 1 1).bufh.toInt := by
  decide

/-- V-RI-3 shares one pixel, V-RI-2 none. -/
theorem test_hyp_Risect : (9 : Int) ≤ 9 ∧ (9 : Int) ≤ (crossing (quadOf 0 0 9 9) (quadOf 9 9 20 20)).recta.q2.toInt ∧
    (crossing (quadOf 0 0 9 9) (quadOf 9 9 20 20)).rectb.q0.toInt ≤ 9 ∧
    (crossing (quadOf 0 0 9 9) (quadOf 10 0 19 9)).recta.q2.toInt <
      (crossing (quadOf 0 0 9 9) (quadOf 10 0 19 9)).rectb.q0.toInt := by decide

end Sys2Proof.Tests
end

section
/-! PROOF. The block's turn, scheduled or not, and what it does while Idle (`00_scope.md` R14, `10_state.md` R41). -/

namespace Sys2Proof.Machine

variable {s : State}

/-- While Idle no command is in flight, so the block has nothing to complete. -/
theorem blockTurn_of_idle (h : s.busy = false) : s.blockTurn = .next s := by
  simp [State.blockTurn, h]

/-- A scheduled completion is the next step: the turn is taken with the event consumed, so on `s` itself. -/
theorem step_completion (s : State) : step (s.withEvent .completion) = s.blockTurn := rfl

/-- With nothing scheduled the step is the block's turn. -/
theorem step_of_schedule_nil (h : s.schedule = []) : step s = s.blockTurn := by
  rw [step, State.advance, h]

/-- Settles O22: both ways to a turn of the block are `blockTurn`, which changes nothing while Idle. -/
theorem blockHasNoStepWhileIdle : Obligations.BlockHasNoStepWhileIdle := by
  intro s hidle
  constructor
  · rw [step_completion, blockTurn_of_idle hidle]
  · intro hnil
    rw [step_of_schedule_nil hnil, blockTurn_of_idle hidle]

end Sys2Proof.Machine
end

section
/-! PROOF. The register map of `10_state.md` R20: a register is found at its own offset and at no other, and none at a
reserved offset (R36). -/

namespace Sys2Proof.Machine

/-- Each register is found at its offset: a search of the whole table for every register. -/
@[simp] theorem regAt_offset (r : Reg) : regAt r.offset = some r := by
  cases r with
  | mat k | opm k | srcX k | srcY k | dstX k | dstY k | rectA k | rectB k | rectO k | comp k => revert k; decide
  | _ => decide

theorem offset_of_regAt {off : Nat} {r : Reg} (h : regAt off = some r) : r.offset = off := by
  simpa using List.find?_some h

theorem offset_injective : Function.Injective Reg.offset := fun q r h =>
  Option.some.inj (by rw [← regAt_offset q, h, regAt_offset])

theorem reservedOffset_admitted {off : Nat} (h : reservedOffset off) : off < 0x200 ∧ off % 4 = 0 := by
  unfold reservedOffset at h
  omega

theorem regAt_of_reserved {off : Nat} (h : reservedOffset off) : regAt off = none := by
  apply List.find?_eq_none.mpr
  intro r _
  rw [beq_iff_eq]
  unfold reservedOffset at h
  cases r <;> simp only [Reg.offset] <;> omega

theorem readOffset_of_reserved (s : State) {off : Nat} (h : reservedOffset off) : s.readOffset off = 0 := by
  rw [State.readOffset, regAt_of_reserved h]

/-- Settles O4: no two registers share an offset, since the one found at an offset is the one that stands there. -/
theorem registerMapHasNoAliases : Obligations.RegisterMapHasNoAliases := by
  refine ⟨⟨rfl, rfl, rfl, rfl, rfl, rfl, rfl, rfl, rfl⟩, fun k => ⟨rfl, rfl, rfl⟩,
    fun k => ⟨rfl, rfl, rfl, rfl, rfl, rfl, rfl⟩, fun r => ?_⟩
  obtain ⟨hrange, halign⟩ := offset_admitted r
  exact ⟨halign, hrange, regAt_offset r, fun q hq => offset_injective hq⟩

end Sys2Proof.Machine
end

section
/-! PROOF. What a host access does at a reserved offset and at each kind of register (`10_state.md` R34, R35, R36, R40;
`20_memory.md` R56). -/

namespace Sys2Proof.Machine

variable (s : State) (v : Word) {r : Reg}

theorem writeKind_eq_command_iff : r.writeKind = .command ↔ r = .cmd := by
  cases r <;> simp [Reg.writeKind]

theorem writeKind_eq_clearBits_iff : r.writeKind = .clearBits ↔ r = .status := by
  cases r <;> simp [Reg.writeKind]

theorem writeKind_eq_control_iff : r.writeKind = .control ↔ r = .ctrl := by
  cases r <;> simp [Reg.writeKind]

/-! ### The answer of an access -/

theorem hostRead_of_regAt_none {off : Nat} (h : regAt off = none) :
    s.hostRead off = { s with response := some (.data 0) } := by
  simp [State.hostRead, h]

theorem hostWrite_of_regAt_none {off : Nat} (h : regAt off = none) :
    s.hostWrite off v = .next { s with response := some .written } := by
  simp [State.hostWrite, h]

theorem hostWrite_status :
    s.hostWrite Reg.status.offset v =
      .next { s with status := statusAfterWrite s.status v, response := some .written } := by
  simp [State.hostWrite, Reg.writeKind]

theorem hostWrite_ctrl :
    s.hostWrite Reg.ctrl.offset v = .next { s with ctrl := ctrlAfterWrite v, response := some .written } := by
  simp [State.hostWrite, Reg.writeKind]

theorem hostWrite_readOnly (hk : r.writeKind = .readOnly) :
    s.hostWrite r.offset v = .next { s with response := some .written } := by
  simp [State.hostWrite, hk]

variable {s}

theorem hostWrite_cmd_of_idle (h : s.busy = false) :
    s.hostWrite Reg.cmd.offset v = .next { s.accept v with response := some .written } := by
  simp [State.hostWrite, Reg.writeKind, h]

theorem hostWrite_data_of_idle (h : s.busy = false) (hk : r.writeKind = .data) :
    s.hostWrite r.offset v = .next { s.writeData r v with response := some .written } := by
  simp [State.hostWrite, hk, h]

theorem hostWrite_of_running (h : s.busy = true) (hk : r.writeKind = .command ∨ r.writeKind = .data) :
    s.hostWrite r.offset v = .fault (.writeWhileRunning r) := by
  rcases hk with hk | hk <;> simp [State.hostWrite, hk, h]

/-! ### The next step when it is a write of a register -/

theorem step_write (s : State) (r : Reg) (v : Word) :
    step (s.withEvent (writeAt r.offset v)) = s.hostWrite r.offset v :=
  step_writeAt s v (offset_admitted r).1 (offset_admitted r).2

/-- Settles O5: no register is found at a reserved offset. -/
theorem reservedOffsetsHoldNoState : Obligations.ReservedOffsetsHoldNoState := by
  intro s off v hoff
  obtain ⟨hrange, halign⟩ := reservedOffset_admitted hoff
  constructor
  · rw [step_readAt s hrange halign, hostRead_of_regAt_none s (regAt_of_reserved hoff)]
  · rw [step_writeAt s v hrange halign, hostWrite_of_regAt_none s v (regAt_of_reserved hoff)]

/-- The value of a `STATUS` word, bit by bit (R34). -/
theorem toNat_statusWord (b d o i q : Bool) :
    (statusWord b d o i q).toNat = b.toNat + 2 * d.toNat + 4 * o.toNat + 8 * i.toNat + 16 * q.toNat := by
  revert b d o i q
  decide

theorem toNat_ctrlWord (b : Bool) : (ctrlWord b).toNat = b.toNat := by
  revert b
  decide

/-- Settles O8: the written word goes through `statusAfterWrite`, whose fields `Laws/Flags` gives. -/
theorem statusWriteClearsFlags : Obligations.StatusWriteClearsFlags := by
  intro s v
  exact ⟨_, (step_write s .status v).trans (hostWrite_status s v), busyBit_write .., okBit_write .., doneBit_write ..,
    illBit_write .., qovfBit_write .., toNat_statusWord .., rfl⟩

/-- Settles O9: the written word goes through `ctrlAfterWrite`. -/
theorem ctrlWriteSetsEnable : Obligations.CtrlWriteSetsEnable := by
  intro s v
  refine ⟨_, (step_write s .ctrl v).trans (hostWrite_ctrl s v), ieBit_write v, ?_, rfl⟩
  change (ctrlWord (ieBit (ctrlAfterWrite v))).toNat = _
  rw [ieBit_write, toNat_ctrlWord]
  rfl

/-- Settles O10: an Idle block answers a write to `CMD` by `State.accept`. -/
theorem commandAcceptance : Obligations.CommandAcceptance := by
  intro s v hidle
  exact ⟨_, (step_write s .cmd v).trans (hostWrite_cmd_of_idle v hidle), rfl, rfl, accept_busy s v, accept_done s v,
    accept_ok s v, accept_ill s v, accept_qovf s v, rfl⟩

end Sys2Proof.Machine
end

section
/-! PROOF. Every step that answers a next state, by what happened in it (`00_scope.md` R14): the one case analysis from
which the rules of the whole machine follow. -/

namespace Sys2Proof.Machine

/-- `s` with an answer on the bus (R55, R56). -/
def State.answering (s : State) (answer : Response) : State := { s with response := some answer }

/-- What happened in a step from `s`: the block completed, it had no step, an access was answered, or reset came. -/
inductive StepEffect (s : State) : State → Prop
  /-- The latched command completed (R41). -/
  | completed {w : Word} {i : Instr} {t : State} (moves : s.BlockMovesNext) (latched : s.latched = some w)
      (decoded : decode w = .command i) (ran : exec i s.afterEvent = .next t) : StepEffect s t
  /-- A latched word that encodes no command completed (R86). -/
  | completedIllegal {w : Word} {why : Illegal} (moves : s.BlockMovesNext) (latched : s.latched = some w)
      (decoded : decode w = .illegal why) : StepEffect s s.afterEvent.completeIllegal
  /-- The block's turn while Idle. -/
  | stayedIdle (idle : s.busy = false) : StepEffect s s.afterEvent
  /-- A read, or a write to a reserved offset or an RO register: an answer and nothing else (R55, R56 c). -/
  | answered (answer : Response) (n : Nat) : StepEffect s ({ s.afterEvent with draws := n }.answering answer)
  /-- A write to `STATUS` (R34). -/
  | statusWritten {v : Word} {es : List Event} (next : s.schedule = writeAt Reg.status.offset v :: es) :
      StepEffect s ({ s.afterEvent with status := statusAfterWrite s.status v }.answering .written)
  /-- A write to `CTRL` (R35). -/
  | ctrlWritten {v : Word} {es : List Event} (next : s.schedule = writeAt Reg.ctrl.offset v :: es) :
      StepEffect s ({ s.afterEvent with ctrl := ctrlAfterWrite v }.answering .written)
  /-- A write to `CMD` while Idle (R40). -/
  | accepted {v : Word} {es : List Event} (next : s.schedule = writeAt Reg.cmd.offset v :: es) (idle : s.busy = false) :
      StepEffect s ((s.afterEvent.accept v).answering .written)
  /-- A write to an RW data register while Idle (R56 e). -/
  | dataWritten {r : Reg} {v : Word} {es : List Event} (next : s.schedule = writeAt r.offset v :: es)
      (idle : s.busy = false) (kind : r.writeKind = .data) :
      StepEffect s ((s.afterEvent.writeData r v).answering .written)
  /-- The reset input (R240, R241). -/
  | resetTaken {es : List Event} (next : s.schedule = .reset :: es) : StepEffect s s.afterEvent.afterReset

variable {s t : State}

theorem stepEffect_of_completion (moves : s.BlockMovesNext) (h : s.afterEvent.completeLatched = .next t) :
    StepEffect s t := by
  obtain ⟨w, latched, ⟨i, decoded, ran⟩ | ⟨why, decoded, rfl⟩⟩ := completeLatched_next h
  · exact .completed moves latched decoded ran
  · exact .completedIllegal moves latched decoded

theorem stepEffect_of_write {off : Nat} {v : Word} {es : List Event} (next : s.schedule = writeAt off v :: es)
    (h : s.afterEvent.hostWrite off v = .next t) : StepEffect s t := by
  cases hr : regAt off with
  | none =>
    rw [hostWrite_of_regAt_none _ _ hr] at h
    cases h
    exact .answered ..
  | some r =>
    obtain rfl := offset_of_regAt hr
    cases kind : r.writeKind with
    | clearBits =>
      obtain rfl := writeKind_eq_clearBits_iff.mp kind
      rw [hostWrite_status] at h
      cases h
      exact .statusWritten next
    | control =>
      obtain rfl := writeKind_eq_control_iff.mp kind
      rw [hostWrite_ctrl] at h
      cases h
      exact .ctrlWritten next
    | readOnly =>
      rw [hostWrite_readOnly _ _ kind] at h
      cases h
      exact .answered ..
    | command =>
      obtain rfl := writeKind_eq_command_iff.mp kind
      cases hb : s.busy with
      | true => rw [hostWrite_of_running v (s := s.afterEvent) hb (.inl kind)] at h; cases h
      | false =>
        rw [hostWrite_cmd_of_idle v (s := s.afterEvent) hb] at h
        cases h
        exact .accepted next hb
    | data =>
      cases hb : s.busy with
      | true => rw [hostWrite_of_running v (s := s.afterEvent) hb (.inr kind)] at h; cases h
      | false =>
        rw [hostWrite_data_of_idle v (s := s.afterEvent) hb kind] at h
        cases h
        exact .dataWritten next hb kind

/-- Every step that answers a next state has one of the effects. -/
theorem step_effect (h : step s = .next t) : StepEffect s t := by
  obtain ⟨moves, h⟩ | ⟨idle, rfl⟩ | ⟨a, es, next, h⟩ | ⟨es, next, rfl⟩ := step_next h
  · exact stepEffect_of_completion moves h
  · exact .stayedIdle idle
  · obtain ⟨off, -, -, rfl, rfl⟩ | ⟨off, v, -, -, rfl, hw⟩ := hostAccess_next h
    · obtain ⟨w, n, heq⟩ := hostRead_eq s.afterEvent off
      rw [heq]
      exact .answered (.data w) n
    · exact stepEffect_of_write next hw
  · exact .resetTaken next

end Sys2Proof.Machine
end

section
/-! PROOF. The control state: reset (R44), the command the step runs (R41), the run state, and the invariant of every
step (R34, R35, R40, R42, R212, R213). -/

namespace Sys2Proof.Machine

variable {s t : State}

/-- Settles O14: the control state by computation, the reserved offsets since no register is found there. -/
theorem resetControlState : Obligations.ResetControlState :=
  ⟨rfl, rfl, rfl, rfl, by decide, fun _ hoff => readOffset_of_reserved _ hoff⟩

theorem completeLatched_of_command {w : Word} {i : Instr} (latched : s.latched = some w) (decoded : decode w = .command i) :
    s.completeLatched = exec i s := by
  simp only [State.completeLatched, latched, decoded]

/-- Settles O19: a block that moves next completes its latched word, whether the step is scheduled or nothing is. -/
theorem stepRunsDecodedCommand : Obligations.StepRunsDecodedCommand := by
  intro s w i moves latched decoded
  rw [step_of_blockMovesNext moves]
  exact completeLatched_of_command latched decoded

/-! ### The end of a completion -/

/-- Every meaning that answers a next state ends in `State.finish`, on a state with the same control registers, with a code
of the list that is 0 exactly on success. -/
theorem exec_eq_finish {i : Instr} (h : exec i s = .next t) :
    ∃ (s' : State) (ok : Bool) (code : Int) (q : Bool), t = s'.finish ok code false q ∧ s'.cmd = s.cmd ∧
      s'.ctrl = s.ctrl ∧ code ∈ resultCodes ∧ (ok = true ↔ code = 0) := by
  cases exec_effect h with
  | matWords | matValues | nothing | rect | compWords => exact ⟨_, true, 0, _, rfl, rfl, rfl, by decide, by decide⟩
  | solveFailed => exact ⟨_, false, solveFail, _, rfl, rfl, rfl, by decide, by decide⟩
  | rectFailed code hcode =>
    refine ⟨_, false, code, _, rfl, rfl, rfl, ?_⟩
    obtain rfl | rfl | rfl := hcode <;> decide

theorem exec_busy {i : Instr} (h : exec i s = .next t) : t.busy = false := by
  obtain ⟨s', ok, code, q, rfl, -⟩ := exec_eq_finish h
  exact finish_busy ..

theorem runState_changes_of_same {P Q : Prop} (h : t.busy = s.busy) :
    (s.busy = false → t.busy = true → P) ∧ (s.busy = true → t.busy = false → Q) := by
  rw [h]
  cases s.busy <;> simp

/-- Settles O25: of the effects of a step only an acceptance sets `BUSY`, and only a completion or a reset clears it. -/
theorem runStateChanges : Obligations.RunStateChanges := by
  intro s t h
  cases step_effect h with
  | completed moves latched decoded ran => simp [exec_busy ran, moves]
  | completedIllegal moves => simp [moves]
  | stayedIdle | answered | ctrlWritten => exact runState_changes_of_same rfl
  | statusWritten => exact runState_changes_of_same (busyBit_write ..)
  | dataWritten => exact runState_changes_of_same (writeData_busy ..)
  | accepted next idle => exact ⟨fun _ _ => ⟨_, _, next⟩, fun hb => absurd hb (by simp [idle])⟩
  | resetTaken next => simp [next]

/-! ### The invariant -/

theorem inv_finish {ok : Bool} {code : Int} {i q : Bool} (hctrl : s.ctrl.extractLsb' 1 31 = 0)
    (hcode : code ∈ resultCodes) (hok : ok = true → code = 0) : (s.finish ok code i q).Inv where
  statusReserved := completion_reserved ..
  ctrlReserved := hctrl
  latchedWhileRunning := by simp
  nothingLatchedWhileIdle _ := rfl
  doneClearWhileRunning := by simp
  okClearWhileRunning := by simp
  codeOfTheList := ⟨code, hcode, rfl⟩
  okMeansZero h := by
    rw [finish_ok] at h
    rw [finish_rc, hok h]
    rfl

/-- The invariant at reset, which a reset event brings back too. -/
theorem inv_reset : State.reset.Inv where
  statusReserved := rfl
  ctrlReserved := rfl
  latchedWhileRunning := by decide
  nothingLatchedWhileIdle _ := rfl
  doneClearWhileRunning := by decide
  okClearWhileRunning := by decide
  codeOfTheList := ⟨0, by decide, rfl⟩
  okMeansZero := by decide

/-- The invariant speaks of `CMD`, `STATUS`, `CTRL`, `RC` and the latched command alone. -/
theorem State.Inv.of_same_control (h : s.Inv) (hcmd : t.cmd = s.cmd) (hstatus : t.status = s.status)
    (hctrl : t.ctrl = s.ctrl) (hrc : t.rc = s.rc) (hlatched : t.latched = s.latched) : t.Inv := by
  obtain ⟨h1, h2, h3, h4, h5, h6, h7, h8⟩ := h
  constructor <;> simpa only [State.busy, State.done, State.ok, hcmd, hstatus, hctrl, hrc, hlatched]

theorem State.Inv.accept (h : s.Inv) (v : Word) : (s.accept v).Inv where
  statusReserved := accept_reserved _
  ctrlReserved := h.ctrlReserved
  latchedWhileRunning _ := rfl
  nothingLatchedWhileIdle := by simp
  doneClearWhileRunning _ := accept_done ..
  okClearWhileRunning _ := accept_ok ..
  codeOfTheList := h.codeOfTheList
  okMeansZero := by simp

theorem State.Inv.write_status (h : s.Inv) (v : Word) : { s with status := statusAfterWrite s.status v }.Inv where
  statusReserved := write_reserved ..
  ctrlReserved := h.ctrlReserved
  latchedWhileRunning hb := h.latchedWhileRunning (by simpa [State.busy] using hb)
  nothingLatchedWhileIdle hb := h.nothingLatchedWhileIdle (by simpa [State.busy] using hb)
  doneClearWhileRunning hb := by
    have := h.doneClearWhileRunning (by simpa [State.busy] using hb)
    simp_all [State.done]
  okClearWhileRunning hb := by
    have := h.okClearWhileRunning (by simpa [State.busy] using hb)
    simp_all [State.ok]
  codeOfTheList := h.codeOfTheList
  okMeansZero hok := h.okMeansZero (by simpa [State.ok] using hok)

theorem State.Inv.write_ctrl (h : s.Inv) (v : Word) : { s with ctrl := ctrlAfterWrite v }.Inv :=
  { h with ctrlReserved := ctrlAfterWrite_reserved v }

/-- Settles O16: the state after reset meets every clause, `RC` with the code 0. -/
theorem resetMeetsInvariant : Obligations.ResetMeetsInvariant := inv_reset

/-- Settles O17: each effect of a step keeps the invariant. -/
theorem stepKeepsInvariant : Obligations.StepKeepsInvariant := by
  intro s t hinv h
  cases step_effect h with
  | completed moves latched decoded ran =>
    obtain ⟨s', ok, code, q, rfl, -, hctrl, hcode, hok⟩ := exec_eq_finish ran
    exact inv_finish (by rw [hctrl]; exact hinv.ctrlReserved) hcode hok.mp
  | completedIllegal => exact inv_finish hinv.ctrlReserved (by decide) (by decide)
  | stayedIdle | answered => exact hinv.of_same_control rfl rfl rfl rfl rfl
  | statusWritten => exact (hinv.write_status _).of_same_control rfl rfl rfl rfl rfl
  | ctrlWritten => exact (hinv.write_ctrl _).of_same_control rfl rfl rfl rfl rfl
  | accepted => exact (hinv.accept _).of_same_control rfl rfl rfl rfl rfl
  | dataWritten =>
    exact hinv.of_same_control (writeData_cmd ..) (writeData_status ..) (writeData_ctrl ..) (writeData_rc ..)
      (writeData_latched ..)
  | resetTaken => exact inv_reset.of_same_control rfl rfl rfl rfl rfl

end Sys2Proof.Machine
end

section
/-! PROOF. What a register reads after each shared update: the registers written, and the frame of every other. -/

namespace Sys2Proof.Machine

variable (s : State) {r : Reg}

@[simp] theorem readReg_afterEvent : s.afterEvent.readReg r = s.readReg r := by
  cases r <;> rfl

@[simp] theorem readReg_answering (answer : Response) : (s.answering answer).readReg r = s.readReg r := by
  cases r <;> rfl

/-- The number of draws is no register. -/
theorem readReg_draws (n : Nat) : { s with draws := n }.readReg r = s.readReg r := by
  cases r <;> rfl

theorem readReg_writeStatus (w : Word) (h : r ≠ .status) : { s with status := w }.readReg r = s.readReg r := by
  cases r with
  | status => exact absurd rfl h
  | _ => rfl

theorem readReg_writeCtrl (w : Word) (h : r ≠ .ctrl) : { s with ctrl := w }.readReg r = s.readReg r := by
  cases r with
  | ctrl => exact absurd rfl h
  | _ => rfl

theorem readReg_accept (v : Word) (hcmd : r ≠ .cmd) (hstatus : r ≠ .status) : (s.accept v).readReg r = s.readReg r := by
  cases r with
  | cmd => exact absurd rfl hcmd
  | status => exact absurd rfl hstatus
  | _ => rfl

/-- A completion writes `STATUS` and `RC`, whatever it reports. -/
theorem readReg_finish {ok : Bool} {code : Int} {i q : Bool} (hstatus : r ≠ .status) (hrc : r ≠ .rc) :
    (s.finish ok code i q).readReg r = s.readReg r := by
  cases r with
  | status => exact absurd rfl hstatus
  | rc => exact absurd rfl hrc
  | _ => rfl

theorem readReg_writeMat (m : Mat3 Word) (n : Nat) (h : r ∉ matRegs) :
    { s with mat := m, draws := n }.readReg r = s.readReg r := by
  cases r with
  | mat k => exact absurd (List.mem_map_of_mem (by revert k; decide)) h
  | _ => rfl

theorem readReg_writeComp (m : Mat3 Word) (n : Nat) (h : r ∉ compRegs) :
    { s with comp := m, draws := n }.readReg r = s.readReg r := by
  cases r with
  | comp k => exact absurd (List.mem_map_of_mem (by revert k; decide)) h
  | _ => rfl

theorem readReg_writeRectO (a b c d : Int) (h : r ∉ rectORegs) : (s.writeRectO a b c d).readReg r = s.readReg r := by
  cases r with
  | rectO k => exact absurd (List.mem_map_of_mem (by revert k; decide)) h
  | _ => rfl

theorem readReg_writeData_self (v : Word) (hk : r.writeKind = .data) : (s.writeData r v).readReg r = v := by
  cases r with
  | cmd | status | ctrl | rc | rectO | comp => cases hk
  | _ => simp [State.writeData, State.readReg]

/-- A write of one register leaves every other, the two coordinates of one point included. -/
theorem readReg_writeData_of_ne {q : Reg} (v : Word) (h : r ≠ q) : (s.writeData q v).readReg r = s.readReg r := by
  cases q with
  | cmd | status | ctrl | rc | rectO | comp => rfl
  | mat | opm | opa | opb | deg | rectA | rectB | bufW | bufH => cases r <;> simp_all [State.writeData, State.readReg]
  | srcX | srcY | dstX | dstY =>
    cases r <;> simp_all +contextual [State.writeData, State.readReg, apply_ite Point.x, apply_ite Point.y]

end Sys2Proof.Machine
end

section
/-! PROOF. Who writes which register (`10_state.md` R22 to R32, R37): the frame of every command, and from it the only
ways in which a data or result register changes. -/

namespace Sys2Proof.Machine

variable {s t : State} {r : Reg} {i : Instr}

theorem exec_msolve_next (h : exec .msolve s = .next t) :
    (∃ m, solveTransform s.sourcePoints s.destPoints = some m ∧ t = (s.writeMatrix m).succeed) ∨
    (solveTransform s.sourcePoints s.destPoints = none ∧ t = s.fail solveFail) := by
  cases hr : solveTransform s.sourcePoints s.destPoints with
  | some m =>
    rw [exec_msolve_some hr] at h
    cases h
    exact .inl ⟨m, rfl, rfl⟩
  | none =>
    rw [exec_msolve_none hr] at h
    cases h
    exact .inr ⟨rfl, rfl⟩

/-- A write set holds `MAT` and RO registers only. -/
theorem mat_or_readOnly_of_mem_writeSet (h : r ∈ writeSet i) : (∃ k, r = .mat k) ∨ r.writeKind = .readOnly := by
  cases i with
  | mident | mmul | mtrans | mscale | mrot | mpersp | minv | msolve =>
    obtain ⟨k, -, rfl⟩ := List.mem_map.mp h
    exact .inl ⟨k, rfl⟩
  | mchkinv => cases h
  | qenc | area | risect =>
    obtain ⟨k, -, rfl⟩ := List.mem_map.mp h
    exact .inr rfl

theorem status_not_mem_writeSet : .status ∉ writeSet i := by
  cases i <;> decide

theorem rc_not_mem_writeSet : .rc ∉ writeSet i := by
  cases i <;> decide

theorem readReg_publishRect (a : AreaResult) (hset : r ∉ rectORegs) (hstatus : r ≠ .status) (hrc : r ≠ .rc) :
    (s.publishRect a).readReg r = s.readReg r := by
  cases a with
  | rect => exact (readReg_finish _ hstatus hrc).trans (readReg_writeRectO s _ _ _ _ hset)
  | failure => exact (readReg_finish _ hstatus hrc).trans (readReg_writeRectO s _ _ _ _ hset)

/-- The frame of all twelve commands (R37). -/
theorem exec_readReg (h : exec i s = .next t) (hset : r ∉ writeSet i) (hstatus : r ≠ .status) (hrc : r ≠ .rc) :
    t.readReg r = s.readReg r := by
  cases i with
  | mident | mmul | mtrans | mscale | mrot | mpersp | minv =>
    cases h
    exact (readReg_finish _ hstatus hrc).trans (readReg_writeMat s _ _ hset)
  | mchkinv =>
    cases h
    exact readReg_finish s hstatus hrc
  | msolve =>
    obtain ⟨m, -, rfl⟩ | ⟨-, rfl⟩ := exec_msolve_next h
    · exact (readReg_finish _ hstatus hrc).trans (readReg_writeMat s _ _ hset)
    · exact readReg_finish s hstatus hrc
  | qenc =>
    rw [exec_qenc] at h
    cases h
    exact (readReg_finish _ hstatus hrc).trans (readReg_writeComp s _ _ hset)
  | area =>
    rw [exec_area] at h
    cases h
    exact readReg_publishRect _ hset hstatus hrc
  | risect =>
    rw [exec_risect] at h
    cases h
    exact readReg_publishRect _ hset hstatus hrc

/-- Settles O29: the frame of all commands, and MSOLVE's failed outcome, which leaves `MAT`. -/
theorem commandsWriteOnlyTheirSet : Obligations.CommandsWriteOnlyTheirSet := by
  intro i s t h
  refine ⟨fun r => exec_readReg h, ?_⟩
  rintro rfl hfailed
  obtain ⟨m, -, rfl⟩ | ⟨-, rfl⟩ := exec_msolve_next h
  · rw [succeed_ok] at hfailed
    cases hfailed
  · rfl

/-- A data or RO register changes in a step only by a completion that writes it, by a host's write to it while Idle, or by
reset. -/
theorem step_readReg_change (h : step s = .next t) (kind : r.writeKind = .data ∨ r.writeKind = .readOnly)
    (hne : t.readReg r ≠ s.readReg r) :
    (s.BlockMovesNext ∧ (r = .rc ∨ ∃ i, r ∈ writeSet i)) ∨
    (s.busy = false ∧ r.writeKind = .data ∧ ∃ es, s.schedule = writeAt r.offset (t.readReg r) :: es) ∨
    ∃ es, s.schedule = .reset :: es := by
  have hcmd : r ≠ .cmd := by rintro rfl; simp [Reg.writeKind] at kind
  have hstatus : r ≠ .status := by rintro rfl; simp [Reg.writeKind] at kind
  have hctrl : r ≠ .ctrl := by rintro rfl; simp [Reg.writeKind] at kind
  cases step_effect h with
  | @completed w i _ moves latched decoded ran =>
    refine .inl ⟨moves, ?_⟩
    by_contra! hkept
    exact hne ((exec_readReg ran (hkept.2 i) hstatus hkept.1).trans (readReg_afterEvent s))
  | completedIllegal moves =>
    refine .inl ⟨moves, .inl ?_⟩
    by_contra! hrc
    exact hne ((readReg_finish _ hstatus hrc).trans (readReg_afterEvent s))
  | stayedIdle => exact absurd (readReg_afterEvent s) hne
  | answered =>
    rw [readReg_answering, readReg_draws, readReg_afterEvent] at hne
    exact absurd rfl hne
  | statusWritten =>
    rw [readReg_answering, readReg_writeStatus _ _ hstatus, readReg_afterEvent] at hne
    exact absurd rfl hne
  | ctrlWritten =>
    rw [readReg_answering, readReg_writeCtrl _ _ hctrl, readReg_afterEvent] at hne
    exact absurd rfl hne
  | accepted => simp [readReg_accept, hcmd, hstatus] at hne
  | @dataWritten q v es next idle kind =>
    rw [readReg_answering] at hne ⊢
    by_cases hq : r = q
    · subst hq
      exact .inr (.inl ⟨idle, kind, es, by rw [readReg_writeData_self _ v kind, next]⟩)
    · simp [readReg_writeData_of_ne _ v hq] at hne
  | resetTaken next => exact .inr (.inr ⟨_, next⟩)

/-- Settles O26: of the three ways a completion is shut out, since no write set holds such a register. -/
theorem operandsChangeOnlyByHostWrite : Obligations.OperandsChangeOnlyByHostWrite := by
  intro s t h r kind hmat hne
  obtain ⟨-, rfl | ⟨i, hset⟩⟩ | ⟨idle, -, next⟩ | next := step_readReg_change h (.inl kind) hne
  · cases kind
  · obtain ⟨k, rfl⟩ | hro := mat_or_readOnly_of_mem_writeSet hset
    · exact absurd rfl (hmat k)
    · rw [kind] at hro
      cases hro
  · exact .inl ⟨idle, next⟩
  · exact .inr next

/-- Settles O27: of the three ways a host's write is shut out, since these registers are RO. -/
theorem resultsChangeOnlyByCompletion : Obligations.ResultsChangeOnlyByCompletion := by
  intro s t h r kind hne
  obtain ⟨moves, -⟩ | ⟨-, hdata, -⟩ | next := step_readReg_change h (.inr kind) hne
  · exact .inl moves
  · rw [kind] at hdata
    cases hdata
  · exact .inr next

end Sys2Proof.Machine
end

section
/-! PROOF. The outcome of a command depends on its read set alone (`10_state.md` R37, R39): agreement on a list of
registers is equality of the fields they stand for, and each meaning is a function of those fields. -/

namespace Sys2Proof.Machine

/-! ### Agreement on a register list -/

theorem Mat3.eq_iff_get {α : Type} {m n : Mat3 α} : m = n ↔ ∀ k, m.get k = n.get k :=
  ⟨fun h _ => h ▸ rfl, Mat3.ext_get⟩

theorem Quad.eq_iff_get {α : Type} {p q : Quad α} : p = q ↔ ∀ k, p.get k = q.get k := by
  cases p
  cases q
  simp [Fin.forall_fin_succ, Quad.get]

theorem Point.eq_iff {α : Type} {p q : Point α} : p = q ↔ p.x = q.x ∧ p.y = q.y := by
  cases p
  cases q
  simp

theorem forall_mem_nine_map {f : Fin 9 → Reg} {P : Reg → Prop} :
    (∀ r ∈ nineIndices.map f, P r) ↔ ∀ k, P (f k) := by
  simp [nineIndices, Fin.forall_fin_succ]

theorem forall_mem_four_map {f : Fin 4 → Reg} {P : Reg → Prop} :
    (∀ r ∈ fourIndices.map f, P r) ↔ ∀ k, P (f k) := by
  simp [fourIndices, Fin.forall_fin_succ]

/-- The two states hold the same word in every register of the list. -/
def AgreeOn (rs : List Reg) (s₁ s₂ : State) : Prop := ∀ r ∈ rs, s₁.readReg r = s₂.readReg r

section
variable {s₁ s₂ : State}

@[simp] theorem agreeOn_append {rs qs : List Reg} : AgreeOn (rs ++ qs) s₁ s₂ ↔ AgreeOn rs s₁ s₂ ∧ AgreeOn qs s₁ s₂ :=
  List.forall_mem_append

@[simp] theorem agreeOn_cons {r : Reg} {rs : List Reg} :
    AgreeOn (r :: rs) s₁ s₂ ↔ s₁.readReg r = s₂.readReg r ∧ AgreeOn rs s₁ s₂ :=
  List.forall_mem_cons

@[simp] theorem agreeOn_nil : AgreeOn [] s₁ s₂ := nofun

@[simp] theorem agreeOn_matRegs : AgreeOn matRegs s₁ s₂ ↔ s₁.mat = s₂.mat :=
  forall_mem_nine_map.trans Mat3.eq_iff_get.symm

@[simp] theorem agreeOn_opmRegs : AgreeOn opmRegs s₁ s₂ ↔ s₁.opm = s₂.opm :=
  forall_mem_nine_map.trans Mat3.eq_iff_get.symm

@[simp] theorem agreeOn_compRegs : AgreeOn compRegs s₁ s₂ ↔ s₁.comp = s₂.comp :=
  forall_mem_nine_map.trans Mat3.eq_iff_get.symm

@[simp] theorem agreeOn_rectARegs : AgreeOn rectARegs s₁ s₂ ↔ s₁.recta = s₂.recta :=
  forall_mem_four_map.trans Quad.eq_iff_get.symm

@[simp] theorem agreeOn_rectBRegs : AgreeOn rectBRegs s₁ s₂ ↔ s₁.rectb = s₂.rectb :=
  forall_mem_four_map.trans Quad.eq_iff_get.symm

@[simp] theorem agreeOn_rectORegs : AgreeOn rectORegs s₁ s₂ ↔ s₁.recto = s₂.recto :=
  forall_mem_four_map.trans Quad.eq_iff_get.symm

@[simp] theorem agreeOn_pointRegs : AgreeOn pointRegs s₁ s₂ ↔ s₁.srcpt = s₂.srcpt ∧ s₁.dstpt = s₂.dstpt := by
  simp only [pointRegs, agreeOn_append]
  simp only [AgreeOn, forall_mem_four_map, State.readReg, Quad.eq_iff_get, Point.eq_iff, forall_and, and_assoc]

end

/-! ### The same outcome -/

/-- `t₁` and `t₂` follow `s₁` and `s₂` by completions of `i` that report the same and leave the same results. -/
def SameOutcome (i : Instr) (s₁ s₂ t₁ t₂ : State) : Prop :=
  t₁.ok = t₂.ok ∧ t₁.rc = t₂.rc ∧ (i ≠ .msolve ∨ t₁.ok = true → AgreeOn (writeSet i) t₁ t₂) ∧
    (s₁.qovf = s₂.qovf → t₁.qovf = t₂.qovf)

section
variable {i : Instr} {s₁ s₂ a₁ a₂ : State}

/-- Two completions that report the same, from states `a₁` and `a₂` in which the results stand. -/
theorem sameOutcome_finish {ok : Bool} {code : Int} {ill q : Bool} (hq₁ : a₁.qovf = s₁.qovf) (hq₂ : a₂.qovf = s₂.qovf)
    (hresults : i ≠ .msolve ∨ ok = true → AgreeOn (writeSet i) a₁ a₂) :
    SameOutcome i s₁ s₂ (a₁.finish ok code ill q) (a₂.finish ok code ill q) := by
  refine ⟨by simp, rfl, fun hi r hr => ?_, fun hq => by simp [hq₁, hq₂, hq]⟩
  have hstatus : r ≠ .status := fun h => status_not_mem_writeSet (h ▸ hr)
  have hrc : r ≠ .rc := fun h => rc_not_mem_writeSet (h ▸ hr)
  rw [finish_ok] at hi
  rw [readReg_finish _ hstatus hrc, readReg_finish _ hstatus hrc, hresults hi r hr]

theorem sameOutcome_writeMatrix {m₁ m₂ : Mat3 F32} (hset : writeSet i = matRegs) (hdraws : s₁.draws = s₂.draws)
    (hm : m₁ = m₂) : SameOutcome i s₁ s₂ (s₁.writeMatrix m₁).succeed (s₂.writeMatrix m₂).succeed := by
  refine sameOutcome_finish rfl rfl fun _ => ?_
  rw [hset, agreeOn_matRegs, writeMatrix_mat, writeMatrix_mat, hdraws, hm]

theorem sameOutcome_composeWith {b₁ b₂ : Mat3 F32} (hset : writeSet i = matRegs) (hdraws : s₁.draws = s₂.draws)
    (hmat : s₁.mat = s₂.mat) (hb : b₁ = b₂) : SameOutcome i s₁ s₂ (s₁.composeWith b₁) (s₂.composeWith b₂) :=
  sameOutcome_writeMatrix hset hdraws (by rw [State.matrix, State.matrix, hmat, hb])

theorem sameOutcome_publishRect {a b : AreaResult} (hset : writeSet i = rectORegs) (h : a = b) :
    SameOutcome i s₁ s₂ (s₁.publishRect a) (s₂.publishRect b) := by
  subst h
  cases a with
  | rect => exact sameOutcome_finish rfl rfl fun _ => by rw [hset, agreeOn_rectORegs]; rfl
  | failure => exact sameOutcome_finish rfl rfl fun _ => by rw [hset, agreeOn_rectORegs]; rfl

end

/-- Settles O30: agreement on the read set makes the operands each meaning reads equal, and so what it reports and writes. -/
theorem commandsReadOnlyTheirSet : Obligations.CommandsReadOnlyTheirSet := by
  intro i s₁ s₂ t₁ t₂ hread hdraws h₁ h₂
  change SameOutcome i s₁ s₂ t₁ t₂
  replace hread : AgreeOn (readSet i) s₁ s₂ := hread
  cases i with
  | mident =>
    cases h₁
    cases h₂
    exact sameOutcome_finish rfl rfl fun _ => agreeOn_matRegs.mpr rfl
  | mmul =>
    cases h₁
    cases h₂
    obtain ⟨hmat, hopm⟩ : s₁.mat = s₂.mat ∧ s₁.opm = s₂.opm := by simpa [readSet] using hread
    exact sameOutcome_composeWith rfl hdraws hmat (by rw [State.multiplier, State.multiplier, hopm])
  | mtrans | mscale | mpersp =>
    cases h₁
    cases h₂
    obtain ⟨hmat, hopa, hopb⟩ : s₁.mat = s₂.mat ∧ s₁.opa = s₂.opa ∧ s₁.opb = s₂.opb := by
      simpa [readSet, State.readReg] using hread
    exact sameOutcome_composeWith rfl hdraws hmat (by simp only [State.scalarA, State.scalarB, hopa, hopb])
  | mrot =>
    cases h₁
    cases h₂
    obtain ⟨hmat, hdeg⟩ : s₁.mat = s₂.mat ∧ s₁.deg = s₂.deg := by simpa [readSet, State.readReg] using hread
    exact sameOutcome_composeWith rfl hdraws hmat (by rw [State.degrees, State.degrees, hdeg])
  | minv =>
    cases h₁
    cases h₂
    have hmat : s₁.mat = s₂.mat := by simpa [readSet] using hread
    exact sameOutcome_writeMatrix rfl hdraws (by rw [State.matrix, State.matrix, hmat])
  | mchkinv =>
    cases h₁
    cases h₂
    exact sameOutcome_finish rfl rfl fun _ => agreeOn_nil
  | msolve =>
    obtain ⟨hsrc, hdst⟩ : s₁.srcpt = s₂.srcpt ∧ s₁.dstpt = s₂.dstpt := by simpa [readSet] using hread
    have hsolve : solveTransform s₁.sourcePoints s₁.destPoints = solveTransform s₂.sourcePoints s₂.destPoints := by
      simp only [State.sourcePoints, State.destPoints, hsrc, hdst]
    obtain ⟨m₁, hm₁, rfl⟩ | ⟨hm₁, rfl⟩ := exec_msolve_next h₁ <;>
      obtain ⟨m₂, hm₂, rfl⟩ | ⟨hm₂, rfl⟩ := exec_msolve_next h₂
    · exact sameOutcome_writeMatrix rfl hdraws (Option.some.inj (by rw [← hm₁, hsolve, hm₂]))
    · simp [hsolve, hm₂] at hm₁
    · simp [hsolve, hm₂] at hm₁
    · exact sameOutcome_finish rfl rfl (by simp)
  | qenc =>
    rw [exec_qenc] at h₁ h₂
    cases h₁
    cases h₂
    have hmat : s₁.matrix = s₂.matrix := by
      rw [State.matrix, State.matrix, agreeOn_matRegs.mp hread]
    rw [hmat, hdraws]
    exact sameOutcome_finish rfl rfl fun _ => agreeOn_compRegs.mpr rfl
  | area =>
    rw [exec_area] at h₁ h₂
    cases h₁
    cases h₂
    obtain ⟨hrect, hmat, hw, hh⟩ : s₁.recta = s₂.recta ∧ s₁.mat = s₂.mat ∧ s₁.bufw = s₂.bufw ∧ s₁.bufh = s₂.bufh := by
      simpa [readSet, State.readReg, and_assoc] using hread
    exact sameOutcome_publishRect rfl
      (by simp only [State.matrix, State.canvasWidth, State.canvasHeight, hrect, hmat, hw, hh])
  | risect =>
    rw [exec_risect] at h₁ h₂
    cases h₁
    cases h₂
    obtain ⟨ha, hb⟩ : s₁.recta = s₂.recta ∧ s₁.rectb = s₂.rectb := by simpa [readSet] using hread
    exact sameOutcome_publishRect rfl (by rw [ha, hb])

end Sys2Proof.Machine
end

section
/-! PROOF. What a host read and a host write of a register answer in each run state (`20_memory.md` R55, R56). -/

namespace Sys2Proof.Machine

variable {s : State} {r : Reg}

theorem readableWhileRunning_iff : r.readableWhileRunning = true ↔ r = .cmd ∨ r = .status ∨ r = .ctrl := by
  cases r <;> simp [Reg.readableWhileRunning]

theorem step_read (s : State) (r : Reg) : step (s.withEvent (readAt r.offset)) = .next (s.hostRead r.offset) :=
  step_readAt s (offset_admitted r).1 (offset_admitted r).2

theorem hostRead_of_idle_or_readable (h : s.busy = false ∨ r.readableWhileRunning = true) :
    s.hostRead r.offset = { s with response := some (.data (s.readReg r)) } := by
  rcases h with h | h <;> simp [State.hostRead, h]

/-- The word a Running block answers with is free: the next draw. -/
theorem hostRead_of_running (hb : s.busy = true) (hr : r.readableWhileRunning = false) :
    s.hostRead r.offset = { s with response := some (.data (Config.freeWord s.draws)), draws := s.draws + 1 } := by
  simp [State.hostRead, hb, hr]

/-- Settles O6: the registers readable while Running are `CMD`, `STATUS` and `CTRL`. -/
theorem hostReadsByRunState : Obligations.HostReadsByRunState := by
  intro s r
  rw [step_read]
  constructor
  · intro h
    rw [hostRead_of_idle_or_readable (h.imp_right readableWhileRunning_iff.mpr)]
  · rintro ⟨hb, hcmd, hstatus, hctrl⟩
    have hr : r.readableWhileRunning = false := by
      simpa [hcmd, hstatus, hctrl] using readableWhileRunning_iff (r := r)
    exact ⟨_, by rw [hostRead_of_running hb hr]⟩

/-- Settles O7: an Idle block answers by `State.writeData`, which writes the one register. -/
theorem dataWriteStoresOneWord : Obligations.DataWriteStoresOneWord := by
  intro s r v
  rw [step_write]
  constructor
  · intro hidle kind
    exact ⟨(s.writeData r v).answering .written, hostWrite_data_of_idle v hidle kind,
      (readReg_answering ..).trans (readReg_writeData_self s v kind),
      fun q hq => (readReg_answering ..).trans (readReg_writeData_of_ne s v hq),
      writeData_latched .., writeData_schedule .., writeData_draws ..⟩
  · intro hro
    have kind : r.writeKind = .readOnly := by
      obtain rfl | ⟨k, rfl⟩ | ⟨k, rfl⟩ := hro <;> rfl
    exact hostWrite_readOnly s v kind

/-- Settles O11: the fault of `State.hostWrite` at a register that takes a command or data. -/
theorem writeWhileRunningFaults : Obligations.WriteWhileRunningFaults := by
  intro s r v hb kind
  rw [step_write]
  exact hostWrite_of_running v hb kind

end Sys2Proof.Machine
end

section
/-! PROOF. Which accesses are refused, and by which name (`20_memory.md` R51, R52, R53). -/

namespace Sys2Proof.Machine

variable {s : State} {a : Access}

theorem inBlock_iff : a.inBlock = true ↔ Config.base ≤ a.addr ∧ a.addr < Config.base + 0x200 := by
  simp [Access.inBlock]

theorem wordWide_iff : a.wordWide = true ↔ a.bytes = 4 := by
  simp [Access.wordWide]

theorem aligned_iff : a.aligned = true ↔ a.addr % 4 = 0 := by
  simp [Access.aligned]

theorem hostAccess_outside (h : ¬ a.inBlock) : s.hostAccess a = .refused .outsideBlock := by
  simp [State.hostAccess, h]

theorem hostAccess_of_width (hin : a.inBlock) (h : ¬ a.wordWide) : s.hostAccess a = .refused .busErrorWidth := by
  simp [State.hostAccess, hin, h]

theorem hostAccess_misaligned (hin : a.inBlock) (hw : a.wordWide) (h : ¬ a.aligned) :
    s.hostAccess a = .refused .busErrorAlignment := by
  simp [State.hostAccess, hin, hw, h]

/-- A write that reaches the block is taken, ignored or a fault, at a register and at a reserved offset alike. -/
theorem hostWrite_ne_refused (off : Nat) (v : Word) (why : Refusal) : s.hostWrite off v ≠ .refused why := by
  unfold State.hostWrite
  split
  · nofun
  · split
    · nofun
    · nofun
    · nofun
    · split <;> nofun
    · split <;> nofun

theorem hostAccess_ne_refused (hin : a.inBlock) (hw : a.wordWide) (hal : a.aligned) (why : Refusal) :
    s.hostAccess a ≠ .refused why := by
  cases a with
  | read addr n => simp [State.hostAccess, hin, hw, hal]
  | write addr n v => simpa [State.hostAccess, hin, hw, hal] using hostWrite_ne_refused _ v why

/-- Settles O12: the three tests of `State.hostAccess` in their order, and none of its answers past them a refusal. -/
theorem notAdmittedAccessRefused : Obligations.NotAdmittedAccessRefused := by
  intro s a
  rw [step_access]
  refine ⟨fun h => hostAccess_outside ?_, fun h₁ h₂ hw => hostAccess_of_width (inBlock_iff.mpr ⟨h₁, h₂⟩) ?_,
    fun h₁ h₂ hw hal => hostAccess_misaligned (inBlock_iff.mpr ⟨h₁, h₂⟩) (wordWide_iff.mpr hw) ?_,
    fun h₁ h₂ hw hal => hostAccess_ne_refused (inBlock_iff.mpr ⟨h₁, h₂⟩) (wordWide_iff.mpr hw) (aligned_iff.mpr hal)⟩
  · rw [inBlock_iff]
    omega
  · rwa [wordWide_iff]
  · rwa [aligned_iff]

end Sys2Proof.Machine
end

section
/-! PROOF. The byte lanes of a word (`20_memory.md` R54). -/

namespace Sys2Proof.Machine

/-- The bytes of one word are its lanes, the first at bit 0. -/
theorem byteAt_add (s : State) {off : Nat} (lane : Nat) (h4 : off % 4 = 0) (hlane : lane < 4) :
    s.byteAt (off + lane) = (s.readOffset off).extractLsb' (8 * lane) 8 := by
  rw [State.byteAt, show 4 * ((off + lane) / 4) = off by omega, show (off + lane) % 4 = lane by omega]

/-- A word is the number whose base-256 digits are its lanes. -/
theorem toNat_eq_sum_lanes (w : Word) :
    w.toNat = (w.extractLsb' 0 8).toNat + 2 ^ 8 * (w.extractLsb' 8 8).toNat + 2 ^ 16 * (w.extractLsb' 16 8).toNat +
      2 ^ 24 * (w.extractLsb' 24 8).toNat := by
  have hw : w.toNat < 2 ^ 32 := w.isLt
  simp only [BitVec.extractLsb'_toNat, Nat.shiftRight_eq_div_pow]
  omega

/-- Settles O13: the four bytes are the lanes of one word, and a word is the sum of its lanes. -/
theorem byteLanesLittleEndian : Obligations.ByteLanesLittleEndian := by
  intro s off h4
  have hfirst : s.byteAt off = (s.readOffset off).extractLsb' 0 8 := byteAt_add s 0 h4 (by decide)
  rw [hfirst, byteAt_add s 1 h4 (by decide), byteAt_add s 2 h4 (by decide), byteAt_add s 3 h4 (by decide)]
  exact toNat_eq_sum_lanes _

end Sys2Proof.Machine
end

section
/-! PROOF. What an access can change while the block is Running (`20_memory.md` R56, R64). -/

namespace Sys2Proof.Machine

variable {s t : State} {a : Access}

/-- An access that a Running block answers gave a word or was ignored, or it wrote `STATUS` or `CTRL`. -/
theorem hostAccess_next_of_running (hb : s.busy = true) (h : s.hostAccess a = .next t) :
    (∃ answer n, t = { s with draws := n }.answering answer) ∨
    (∃ v, t = { s with status := statusAfterWrite s.status v }.answering .written) ∨
    (∃ v, t = { s with ctrl := ctrlAfterWrite v }.answering .written) := by
  obtain ⟨off, -, -, -, rfl⟩ | ⟨off, v, -, -, -, hw⟩ := hostAccess_next h
  · obtain ⟨w, n, heq⟩ := hostRead_eq s off
    exact .inl ⟨.data w, n, heq⟩
  · obtain rfl | rfl | rfl | ⟨hidle, -⟩ | ⟨hidle, -⟩ := hostWrite_next hw
    · exact .inl ⟨.written, s.draws, rfl⟩
    · exact .inr (.inl ⟨v, rfl⟩)
    · exact .inr (.inr ⟨v, rfl⟩)
    · simp [hb] at hidle
    · simp [hb] at hidle

/-- Settles O28: what a Running block still takes from the host leaves `BUSY`, the latched command and every register
but `STATUS` and `CTRL`. -/
theorem runningBlockKeepsItsOperands : Obligations.RunningBlockKeepsItsOperands := by
  intro s t a hb h
  rw [step_access] at h
  obtain ⟨answer, n, rfl⟩ | ⟨v, rfl⟩ | ⟨v, rfl⟩ := hostAccess_next_of_running hb h
  · exact ⟨hb, rfl, fun r _ _ => (readReg_answering ..).trans (readReg_draws s n)⟩
  · exact ⟨(busyBit_write ..).trans hb, rfl,
      fun r hstatus _ => (readReg_answering ..).trans (readReg_writeStatus s _ hstatus)⟩
  · exact ⟨hb, rfl, fun r _ hctrl => (readReg_answering ..).trans (readReg_writeCtrl s _ hctrl)⟩

end Sys2Proof.Machine
end

section
/-! PROOF. The decoder by the two fields of a word, and the command words (`30_encoding.md` R80, R82, R84). -/

namespace Sys2Proof

variable {w : Word} {op : Byte} {i : Instr}

/-- The two readings of the opcode map agree: by trial of the 256 bytes, and of the twelve commands. -/
theorem commandOfOpcode_eq_some_iff : commandOfOpcode op = some i ↔ op = opcode i := by
  constructor
  · have hall : ∀ op, ∀ i ∈ commandOfOpcode op, op = opcode i := by decide
    exact hall op i
  · rintro rfl
    cases i <;> rfl

theorem commandOfOpcode_eq_none_iff : commandOfOpcode op = none ↔ ∀ i, op ≠ opcode i := by
  simp only [Option.eq_none_iff_forall_ne_some, ne_eq, commandOfOpcode_eq_some_iff]

theorem zeroFieldClear_iff : zeroFieldClear w = true ↔ w.extractLsb' 8 24 = 0 := beq_iff_eq

/-! ### The decoder, one lemma a case -/

theorem decode_of_zeroField_ne (h : w.extractLsb' 8 24 ≠ 0) : decode w = .illegal .zeroField :=
  if_neg (mt zeroFieldClear_iff.mp h)

theorem decode_of_opcode (hz : w.extractLsb' 8 24 = 0) (hop : opField w = opcode i) : decode w = .command i := by
  rw [decode, if_pos (zeroFieldClear_iff.mpr hz), commandOfOpcode_eq_some_iff.mpr hop]

theorem decode_of_no_opcode (hz : w.extractLsb' 8 24 = 0) (hop : ∀ i, opField w ≠ opcode i) :
    decode w = .illegal (.opcode (opField w)) := by
  rw [decode, if_pos (zeroFieldClear_iff.mpr hz), commandOfOpcode_eq_none_iff.mpr hop]

/-- Settles O3: the cases of the decoder. -/
theorem decodingFollowsTheFields : Obligations.DecodingFollowsTheFields := fun _ =>
  ⟨decode_of_zeroField_ne, fun hz _ => decode_of_opcode hz, decode_of_no_opcode⟩

/-- A word decodes to a command only with a clear ZERO field and the opcode of that command. -/
theorem decode_eq_command_iff : decode w = .command i ↔ w.extractLsb' 8 24 = 0 ∧ opField w = opcode i := by
  refine ⟨fun h => ?_, fun ⟨hz, hop⟩ => decode_of_opcode hz hop⟩
  by_cases hz : w.extractLsb' 8 24 = 0
  · refine ⟨hz, ?_⟩
    by_cases hop : ∃ j, opField w = opcode j
    · obtain ⟨j, hj⟩ := hop
      rw [decode_of_opcode hz hj] at h
      cases h
      exact hj
    · rw [decode_of_no_opcode hz (not_exists.mp hop)] at h
      cases h
  · rw [decode_of_zeroField_ne hz] at h
    cases h

/-! ### The command words -/

/-- A word is its ZERO field above its opcode field, so these two determine it. -/
theorem eq_encode_iff : w = encode i ↔ w.extractLsb' 8 24 = 0 ∧ opField w = opcode i := by
  constructor
  · rintro rfl
    exact ⟨BitVec.extractLsb'_append_eq_left, BitVec.extractLsb'_append_eq_right⟩
  · rintro ⟨hz, hop⟩
    calc w = w.extractLsb' 8 24 ++ opField w := (BitVec.extractLsb'_append_extractLsb' (w := 24) (len := 8)).symm
      _ = encode i := by rw [hz, hop]; rfl

theorem decode_eq_command_iff_eq_encode : decode w = .command i ↔ w = encode i :=
  decode_eq_command_iff.trans eq_encode_iff.symm

@[simp] theorem decode_encode (i : Instr) : decode (encode i) = .command i :=
  decode_eq_command_iff_eq_encode.mpr rfl

/-- Settles O2: a command and its word are determined by the same two fields. -/
theorem decodeAndEncodeAgree : Obligations.DecodeAndEncodeAgree :=
  ⟨by decide, fun _ _ _ => decode_eq_command_iff_eq_encode⟩

/-- Settles O1: each word of the map is the encoding of its command. -/
theorem commandWordsDecode : Obligations.CommandWordsDecode :=
  ⟨decode_encode .mident, decode_encode .mmul, decode_encode .mtrans, decode_encode .mscale, decode_encode .mrot,
    decode_encode .mpersp, decode_encode .minv, decode_encode .mchkinv, decode_encode .msolve, decode_encode .qenc,
    decode_encode .area, decode_encode .risect⟩

end Sys2Proof
end

section
/-! PROOF. A word that encodes no command: its acceptance and its completion (`10_state.md` R40, `30_encoding.md` R86). -/

namespace Sys2Proof.Machine

variable {s s' : State}

theorem completeLatched_of_illegal {w : Word} {why : Illegal} (latched : s.latched = some w)
    (decoded : decode w = .illegal why) : s.completeLatched = .next s.completeIllegal := by
  simp only [State.completeLatched, latched, decoded]

/-- Every completion ends in `State.finish`: from any state with the control registers of `s`, it reports what it is
given (R41). -/
theorem completedWith_finish {ok : Bool} {code : Int} {i q : Bool} (hcmd : s'.cmd = s.cmd)
    (hctrl : s'.ctrl = s.ctrl) : CompletedWith s (s'.finish ok code i q) ok code where
  idle := finish_busy ..
  done := finish_done ..
  ok := finish_ok ..
  rc := rfl
  released := rfl
  cmd := hcmd
  ctrl := hctrl

theorem keepsOperands_finish {ok : Bool} {code : Int} {i q : Bool} : KeepsOperands s (s.finish ok code i q) := by
  constructor <;> rfl

/-- Settles O20: acceptance does not look at the word, and the completion is `State.completeIllegal`. -/
theorem illegalWordCompletes : Obligations.IllegalWordCompletes := by
  constructor
  · intro s w why idle decoded
    exact ⟨_, (step_write s .cmd w).trans (hostWrite_cmd_of_idle w idle), rfl, rfl, accept_busy s w⟩
  · intro s w why moves latched decoded
    have hstep : step s = .next s.afterEvent.completeIllegal :=
      (step_of_blockMovesNext moves).trans (completeLatched_of_illegal latched decoded)
    exact ⟨_, hstep, rfl, completedWith_finish rfl rfl, completeIllegal_ill _, completeIllegal_qovf _,
      keepsOperands_finish, rfl, rfl, rfl⟩

end Sys2Proof.Machine
end

section
/-! PROOF. The value a bit pattern denotes, by its fields (`30_encoding.md` R70), and the NaN a register is delivered
(`40_arithmetic.md` R108). -/

namespace Sys2Proof.Machine

variable {w : Word}

/-! ### The fields as bit ranges -/

theorem exponentField_eq_255_iff : exponentField w = 255 ↔ w.extractLsb' 23 8 = 255 :=
  BitVec.toNat_inj (x := w.extractLsb' 23 8) (y := 255)

theorem fractionField_eq_zero_iff : fractionField w = 0 ↔ w.extractLsb' 0 23 = 0 :=
  BitVec.toNat_inj (x := w.extractLsb' 0 23) (y := 0)

/-! ### Reading a pattern -/

theorem ofWord_of_nan (he : exponentField w = 255) (hf : fractionField w ≠ 0) : F32.ofWord w = .nan := by
  rw [F32.ofWord, if_pos he, if_neg hf]

theorem ofWord_of_inf (he : exponentField w = 255) (hf : fractionField w = 0) : F32.ofWord w = .inf (signField w) := by
  rw [F32.ofWord, if_pos he, if_pos hf]

/-- The magnitude of a finite pattern, in units of 2^-149 (R70). -/
def unitsField (w : Word) : Nat :=
  if exponentField w = 0 then fractionField w else (2 ^ 23 + fractionField w) * 2 ^ (exponentField w - 1)

theorem ofWord_of_finite (he : exponentField w ≠ 255) : F32.ofWord w = .fin (signField w) (unitsField w) := by
  rw [F32.ofWord, if_neg he, ← apply_ite (F32.fin (signField w))]
  rfl

/-- Only the pattern of -0.0 is read as -0.0. -/
theorem ofWord_eq_negZero_iff : F32.ofWord w = .fin true 0 ↔ w = 0x80000000 := by
  constructor
  · intro h
    rw [← toWord_ofWord 0 w (by rw [h]; nofun), h]
    decide
  · rintro rfl
    decide

/-! ### The pattern of a delivered NaN -/

@[simp] theorem exponentField_nanWord (r : Word) : exponentField (nanWord r) = 255 :=
  exponentField_packF32 _ _ (by decide)

theorem fractionField_nanWord (r : Word) :
    fractionField (nanWord r) = if fractionField r = 0 then 1 else fractionField r := by
  refine fractionField_packF32 _ _ ?_
  have := fractionField_lt r
  split <;> omega

/-- A draw that is a NaN pattern is delivered as it is, so every NaN pattern can be (R108). -/
theorem nanWord_of_nan (he : exponentField w = 255) (hf : fractionField w ≠ 0) : nanWord w = w := by
  rw [nanWord, if_neg hf, ← he, packF32_fields]

/-- Settles O36: the fields of `nanWord`, and the reading of the patterns with `e = 255`. -/
theorem deliveredNanIsAnyNanPattern : Obligations.DeliveredNanIsAnyNanPattern := by
  simp only [Obligations.DeliveredNanIsAnyNanPattern, ← exponentField_eq_255_iff, ne_eq, ← fractionField_eq_zero_iff]
  refine ⟨fun r => ⟨exponentField_nanWord r, ?_⟩, fun w he =>
    ⟨fun hf => ⟨nanWord_of_nan he hf, ofWord_of_nan he hf⟩, fun hf => ofWord_of_inf he hf⟩⟩
  change fractionField (nanWord r) ≠ 0
  rw [fractionField_nanWord]
  split <;> omega

end Sys2Proof.Machine
end

section
/-! PROOF. The primitives on finite operands, by the exact result they round (`40_arithmetic.md` R100 to R105). -/

namespace Sys2Proof.Machine

variable (a b : Bool) (u v : Nat)

/-! ### The exact value of a finite operand -/

@[simp] theorem natAbs_real_fin : (F32.fin a u).real.natAbs = u := by
  cases a <;> simp [F32.real]

@[simp] theorem real_fin_not : (F32.fin (!a) u).real = -(F32.fin a u).real := by
  cases a <;> simp [F32.real]

theorem real_fin_add : (F32.fin a (u + v)).real = (F32.fin a u).real + (F32.fin a v).real := by
  cases a <;> simp [F32.real, add_comm]

variable {a b u v}

theorem real_fin_sub (h : v ≤ u) : (F32.fin a (u - v)).real = (F32.fin a u).real - (F32.fin a v).real := by
  rw [eq_sub_iff_add_eq, ← real_fin_add, Nat.sub_add_cancel h]

/-! ### Sums -/

/-- A number of units that is not zero has the sign and the magnitude of its exact value. -/
theorem roundF32_of_real {z : Int} (hz : z ≠ 0) (h : (F32.fin a u).real = z) :
    roundF32 a u 1 = roundF32 (decide (z < 0)) z.natAbs 1 := by
  have hsign : a = decide (z < 0) := by
    cases a <;> simp [F32.real] at h ⊢ <;> omega
  rw [← hsign, ← h, natAbs_real_fin]

/-- The rounding of no units is the zero of the sign. -/
theorem roundF32_zero (neg : Bool) : roundF32 neg 0 1 = .fin neg 0 := by
  cases neg <;> decide

/-- A sum that is not zero is the rounding of the exact sum (R101). -/
theorem fadd_fin_of_ne_zero (h : (F32.fin a u).real + (F32.fin b v).real ≠ 0) :
    fadd (.fin a u) (.fin b v) =
      roundF32 (decide ((F32.fin a u).real + (F32.fin b v).real < 0))
        ((F32.fin a u).real + (F32.fin b v).real).natAbs 1 := by
  rw [fadd]
  by_cases hab : a = b
  · subst hab
    rw [if_pos rfl]
    exact roundF32_of_real h (real_fin_add ..)
  · obtain rfl : b = !a := Bool.eq_not_of_ne (Ne.symm hab)
    rw [real_fin_not] at h ⊢
    rw [if_neg hab]
    obtain rfl | hlt | hlt : u = v ∨ v < u ∨ u < v := by omega
    · exact absurd (add_neg_cancel _) h
    · rw [if_neg hlt.ne', if_pos hlt]
      exact roundF32_of_real h (real_fin_sub hlt.le)
    · rw [if_neg hlt.ne, if_neg hlt.not_gt]
      refine roundF32_of_real h ?_
      rw [real_fin_not, real_fin_sub hlt.le]
      ring

/-- A sum that is zero is `-0` only of two negative zeros (R101). -/
theorem fadd_fin_of_eq_zero (h : (F32.fin a u).real + (F32.fin b v).real = 0) :
    fadd (.fin a u) (.fin b v) = .fin (decide (F32.fin a u = .fin true 0 ∧ F32.fin b v = .fin true 0)) 0 := by
  rw [fadd]
  by_cases hab : a = b
  · subst hab
    rw [← real_fin_add, ← Int.natAbs_eq_zero, natAbs_real_fin] at h
    obtain ⟨rfl, rfl⟩ := Nat.add_eq_zero_iff.mp h
    rw [if_pos rfl, roundF32_zero]
    cases a <;> rfl
  · obtain rfl : b = !a := Bool.eq_not_of_ne (Ne.symm hab)
    rw [real_fin_not, add_neg_eq_zero] at h
    have huv : u = v := by rw [← natAbs_real_fin a u, h, natAbs_real_fin]
    rw [if_neg hab, if_pos huv]
    cases a <;> simp [fzero]

/-! ### Products and quotients -/

/-- The magnitude of an exact product is the product of the magnitudes (R103). -/
theorem fmul_fin :
    fmul (.fin a u) (.fin b v) = roundF32 (a != b) ((F32.fin a u).real * (F32.fin b v).real).natAbs (2 ^ 149) := by
  simp [fmul, Int.natAbs_mul]

theorem fdiv_fin (h : (F32.fin b v).real ≠ 0) :
    fdiv (.fin a u) (.fin b v) =
      roundF32 (a != b) ((F32.fin a u).real.natAbs * 2 ^ 149) (F32.fin b v).real.natAbs := by
  rw [← Int.natAbs_ne_zero, natAbs_real_fin] at h
  rw [natAbs_real_fin, natAbs_real_fin, fdiv, if_neg h]

/-! ### The sign operations -/

theorem fneg_fin : fneg (.fin a u) = .fin (!a) (F32.fin a u).real.natAbs := by
  rw [natAbs_real_fin, fneg]

theorem fabs_fin : fabs (.fin a u) = .fin false (F32.fin a u).real.natAbs := by
  rw [natAbs_real_fin, fabs]

theorem fsub_fin : fsub (.fin a u) (.fin b v) = fadd (.fin a u) (.fin (!b) (F32.fin b v).real.natAbs) := by
  rw [fsub, fneg_fin]

/-- Settles O32: a finite pattern is read by its fields, and each primitive rounds the exact result of such values. -/
theorem finiteArithmeticRoundsTheExactResult : Obligations.FiniteArithmeticRoundsTheExactResult := by
  refine ⟨fun x y hx hy => ?_, fun _ => rfl⟩
  have ha := ofWord_of_finite (mt exponentField_eq_255_iff.mp hx)
  have hb := ofWord_of_finite (mt exponentField_eq_255_iff.mp hy)
  simp only [← ofWord_eq_negZero_iff, ha, hb]
  exact ⟨rfl, fadd_fin_of_ne_zero, fadd_fin_of_eq_zero, fsub_fin, fmul_fin, fdiv_fin, fneg_fin, fabs_fin⟩

end Sys2Proof.Machine
end

section
/-! PROOF. Rounding is to nearest, ties to even (`40_arithmetic.md` R100), and leaves the values of neutral operands and of
small integers as they are (R101, R102, R103, R107). -/

namespace Sys2Proof.Machine

variable {n d q m c : Nat}

/-! ### The grid of binary32: whole numbers of units with at most 24 significant bits -/

theorem lt_mul_two_pow_spacingExp (q : Nat) : q < 2 ^ 24 * 2 ^ spacingExp q := by
  obtain h | h := Nat.lt_or_ge q (2 ^ 23)
  · rw [spacingExp_of_lt (by omega)]; omega
  · exact (spacingExp_bounds h).2

/-- Above the subnormal grid, the spacing of a number leaves it 24 significant bits. -/
theorem le_of_spacingExp_pos (h : 0 < spacingExp q) : 2 ^ 23 * 2 ^ spacingExp q ≤ q := by
  refine (spacingExp_bounds ?_).1
  by_contra hlt
  rw [spacingExp_of_lt (by omega)] at h
  omega

/-- A significand of at most 24 bits puts a number on its own grid, 2^24 included. -/
theorem two_pow_spacingExp_dvd_mul (h : m ≤ 2 ^ 24) (k : Nat) : 2 ^ spacingExp (m * 2 ^ k) ∣ m * 2 ^ k := by
  obtain hlt | rfl := h.lt_or_eq
  · refine Dvd.dvd.mul_left (pow_dvd_pow 2 ?_) m
    by_contra hk
    have hge := le_of_spacingExp_pos (q := m * 2 ^ k) (by omega)
    have hpow : 2 ^ (k + 1) ≤ 2 ^ spacingExp (m * 2 ^ k) := Nat.pow_le_pow_right (by decide) (by omega)
    have hmul : m * 2 ^ k < 2 ^ 24 * 2 ^ k := Nat.mul_lt_mul_of_pos_right hlt (by positivity)
    rw [pow_succ] at hpow
    omega
  · rw [show 2 ^ 24 * 2 ^ k = 2 ^ 23 * 2 ^ (k + 1) by ring, spacingExp_mul le_rfl (by decide)]
    exact Nat.dvd_mul_left ..

/-- A number on the grid is on the local grid of `q` too, or lies below the binade of `q`. -/
theorem dvd_or_lt_of_grid (hc : 2 ^ spacingExp c ∣ c) (q : Nat) :
    2 ^ spacingExp q ∣ c ∨ 0 < spacingExp q ∧ c < 2 ^ 23 * 2 ^ spacingExp q := by
  obtain h | h := Nat.lt_or_ge (spacingExp c) (spacingExp q)
  · have hpow : 2 ^ (spacingExp c + 1) ≤ 2 ^ spacingExp q := Nat.pow_le_pow_right (by decide) h
    have hlt := lt_mul_two_pow_spacingExp c
    rw [pow_succ] at hpow
    exact .inr ⟨by omega, by omega⟩
  · exact .inl ((pow_dvd_pow 2 h).trans hc)

/-! ### Nearest, ties to even -/

theorem roundHalfEven_cases (n d : Nat) :
    2 * (n % d) < d ∧ roundHalfEven n d = n / d ∨ d < 2 * (n % d) ∧ roundHalfEven n d = n / d + 1 ∨
    2 * (n % d) = d ∧ roundHalfEven n d % 2 = 0 ∧ (roundHalfEven n d = n / d ∨ roundHalfEven n d = n / d + 1) := by
  unfold roundHalfEven
  split
  · omega
  · split <;> omega

/-- `roundHalfEven` is a nearest integer, and the even one of two. -/
theorem roundHalfEven_nearest (hd : 0 < d) (j : Nat) :
    |(roundHalfEven n d * d : Int) - n| ≤ |(j * d : Int) - n| ∧
    (j ≠ roundHalfEven n d → |(roundHalfEven n d * d : Int) - n| = |(j * d : Int) - n| → roundHalfEven n d % 2 = 0) := by
  have hmod := Nat.mod_lt n hd
  have hdiv := Nat.div_add_mod' n d
  have hnext : (n / d + 1) * d = n / d * d + d := Nat.add_one_mul ..
  have hbelow : j < n / d → j * d + d ≤ n / d * d := fun h => Nat.add_one_mul j d ▸ Nat.mul_le_mul_right d h
  have habove : n / d + 1 < j → (n / d + 1) * d + d ≤ j * d := fun h =>
    Nat.add_one_mul (n / d + 1) d ▸ Nat.mul_le_mul_right d h
  have hround := roundHalfEven_cases n d
  simp only [← Nat.cast_mul, Int.abs_eq_natAbs]
  generalize n / d = t at *
  generalize roundHalfEven n d = m at *
  obtain hj | rfl | rfl | hj : j < t ∨ j = t ∨ j = t + 1 ∨ t + 1 < j := by omega
  all_goals obtain ⟨hs, rfl⟩ | ⟨hs, rfl⟩ | ⟨hs, heven, rfl | rfl⟩ := hround <;> omega

/-! ### Rounding to the local spacing -/

/-- The significand that `roundUnits` scales by the local spacing. -/
def roundedSignificand (n d : Nat) : Nat := roundHalfEven n (d * 2 ^ spacingExp (n / d))

theorem roundUnits_eq_mul (n d : Nat) : roundUnits n d = roundedSignificand n d * 2 ^ spacingExp (n / d) := rfl

theorem roundedSignificand_le (n d : Nat) : roundedSignificand n d ≤ 2 ^ 24 := by
  have hle := roundHalfEven_le n (d * 2 ^ spacingExp (n / d))
  have hlt := (Nat.div_lt_iff_lt_mul (by positivity)).mpr (lt_mul_two_pow_spacingExp (n / d))
  rw [← Nat.div_div_eq_div_mul] at hle
  exact hle.trans hlt

theorem le_roundedSignificand (h : 0 < spacingExp (n / d)) : 2 ^ 23 ≤ roundedSignificand n d := by
  have hge := roundHalfEven_ge n (d * 2 ^ spacingExp (n / d))
  rw [← Nat.div_div_eq_div_mul] at hge
  exact ((Nat.le_div_iff_mul_le (by positivity)).mpr (le_of_spacingExp_pos h)).trans hge

/-- An even significand stays even when rounding up carries it to 2^24, into the next binade. -/
theorem roundUnits_significand_even (h : roundedSignificand n d % 2 = 0) :
    roundUnits n d / 2 ^ spacingExp (roundUnits n d) % 2 = 0 := by
  rw [roundUnits_eq_mul]
  obtain hlt | hm := (roundedSignificand_le n d).lt_or_eq
  · have hexp : spacingExp (roundedSignificand n d * 2 ^ spacingExp (n / d)) = spacingExp (n / d) := by
      obtain hk | hk := Nat.eq_zero_or_pos (spacingExp (n / d))
      · rw [hk, pow_zero, mul_one, spacingExp_of_lt hlt]
      · exact spacingExp_mul (le_roundedSignificand hk) hlt
    rw [hexp, Nat.mul_div_cancel _ (by positivity), h]
  · rw [hm, show 2 ^ 24 * 2 ^ spacingExp (n / d) = 2 ^ 23 * 2 ^ (spacingExp (n / d) + 1) by ring,
      spacingExp_mul le_rfl (by decide), Nat.mul_div_cancel _ (by positivity)]
    rfl

theorem roundUnits_nearest_multiple (hd : 0 < d) (j : Nat) :
    |(roundUnits n d * d : Int) - n| ≤ |((j * 2 ^ spacingExp (n / d) : Nat) * d : Int) - n| ∧
    (j ≠ roundedSignificand n d →
      |(roundUnits n d * d : Int) - n| = |((j * 2 ^ spacingExp (n / d) : Nat) * d : Int) - n| →
        roundedSignificand n d % 2 = 0) := by
  have nearest := roundHalfEven_nearest (n := n) (d := d * 2 ^ spacingExp (n / d)) (by positivity) j
  have scaled (i : Nat) : (i * (d * 2 ^ spacingExp (n / d) : Nat) : Int) = (i * 2 ^ spacingExp (n / d) : Nat) * d := by
    push_cast
    ring
  rwa [scaled, scaled] at nearest

/-- No number on the grid is nearer than the rounded one. One below the binade of `n / d` loses to the binade's first number,
which lies between; any other is a multiple of the local spacing. -/
theorem roundUnits_nearest (hd : 0 < d) (hc : 2 ^ spacingExp c ∣ c) :
    |(roundUnits n d * d : Int) - n| ≤ |(c * d : Int) - n| ∧
    (c ≠ roundUnits n d → |(roundUnits n d * d : Int) - n| = |(c * d : Int) - n| → roundedSignificand n d % 2 = 0) := by
  have nearest := roundUnits_nearest_multiple (n := n) hd
  obtain ⟨j, rfl⟩ | ⟨hk, hlt⟩ := dvd_or_lt_of_grid hc (n / d)
  · obtain ⟨hle, heven⟩ := nearest j
    rw [mul_comm _ j]
    exact ⟨hle, fun hne => heven fun hj => hne (by rw [hj, roundUnits_eq_mul])⟩
  · have hn : 2 ^ 23 * 2 ^ spacingExp (n / d) * d ≤ n := (Nat.le_div_iff_mul_le hd).mp (le_of_spacingExp_pos hk)
    have hcd : c * d < 2 ^ 23 * 2 ^ spacingExp (n / d) * d := Nat.mul_lt_mul_of_pos_right hlt hd
    have hfar : |((2 ^ 23 * 2 ^ spacingExp (n / d) : Nat) * d : Int) - n| < |(c * d : Int) - n| := by
      simp only [← Nat.cast_mul, Int.abs_eq_natAbs]
      omega
    have hround := (nearest (2 ^ 23)).1.trans_lt hfar
    exact ⟨hround.le, fun _ heq => absurd heq hround.ne⟩

/-- No number on the grid lies between the largest finite value and the overflow bound. -/
theorem lt_overflowUnits_iff {u : Nat} (h : 2 ^ spacingExp u ∣ u) :
    u < overflowUnits ↔ u ≤ (2 ^ 128 - 2 ^ 104) * 2 ^ 149 := by
  unfold overflowUnits
  refine ⟨fun hlt => ?_, fun hle => by omega⟩
  by_contra hgt
  have hexp : 253 ≤ spacingExp u := by
    by_contra hs
    have hpow : 2 ^ spacingExp u ≤ 2 ^ 252 := Nat.pow_le_pow_right (by decide) (by omega)
    have := lt_mul_two_pow_spacingExp u
    omega
  obtain ⟨m, rfl⟩ := (pow_dvd_pow 2 hexp).trans h
  omega

/-- Settles O31: the rounded significand is the nearest integer on the local grid, which meets every other grid there. -/
theorem roundingIsToNearestEven : Obligations.RoundingIsToNearestEven := by
  intro num den hden
  refine ⟨roundUnits_dvd num den, fun c hc => ?_, fun neg => ?_⟩
  · obtain ⟨hle, heven⟩ := roundUnits_nearest (n := num) hden hc
    exact ⟨hle, fun hne heq => roundUnits_significand_even (heven hne heq)⟩
  · simp only [roundF32, lt_overflowUnits_iff (roundUnits_dvd num den), ← not_lt, ite_not]

/-! ### Exact results -/

section

variable {v : F32} {a b : Bool} {u : Nat}

theorem fmul_fone (h : v.Representable) (hv : v ≠ .nan) : fmul v fone = v := by
  cases v with
  | nan => exact absurd rfl hv
  | inf a => rw [fone, fmul, if_neg (by decide), Bool.bne_false]
  | fin a u => rw [fone, fmul, Bool.bne_false, roundF32_exact a h (by decide)]

theorem fadd_zero_right (h : (F32.fin a u).Representable) (hu : u ≠ 0) : fadd (.fin a u) (.fin b 0) = .fin a u := by
  have exact_one : roundF32 a u 1 = .fin a u := by simpa using roundF32_exact a h one_pos
  rw [fadd, Nat.add_zero, Nat.sub_zero, exact_one, if_neg hu, if_pos (Nat.pos_of_ne_zero hu), ite_self]

theorem fsub_self : fsub (.fin a u) (.fin a u) = fzero := by
  rw [fsub, fneg, fadd, if_neg (Bool.self_ne_not a), if_pos rfl]

end

/-- Settles O33: a register's value is representable, so rounding leaves it as it is. -/
theorem neutralOperandsAreExact : Obligations.NeutralOperandsAreExact := by
  intro w
  have hrep := ofWord_representable w
  refine ⟨fmul_fone hrep, ?_⟩
  generalize F32.ofWord w = v at *
  cases v with
  | nan => exact ⟨nofun, nofun⟩
  | inf a => exact ⟨nofun, nofun⟩
  | fin a u =>
    refine ⟨fun _ hne neg => fadd_zero_right hrep ?_, fun _ => fsub_self⟩
    rwa [← Int.natAbs_ne_zero, natAbs_real_fin] at hne

/-- An integer of magnitude at most 2^24 is converted exactly (R107). -/
theorem i2f_exact {i : Int} (h : i.natAbs ≤ 2 ^ 24) : i2f i = .fin (decide (i < 0)) (i.natAbs * 2 ^ 149) := by
  have hrep : (F32.fin (decide (i < 0)) (i.natAbs * 2 ^ 149)).Representable :=
    ⟨by unfold overflowUnits; omega, two_pow_spacingExp_dvd_mul h 149⟩
  simpa [i2f] using roundF32_exact _ hrep one_pos

/-- Settles O35: 24 significant bits hold the integer. -/
theorem smallIntegersConvertExactly : Obligations.SmallIntegersConvertExactly :=
  fun _ _ _ => i2f_exact (by omega)

end Sys2Proof.Machine
end

section
/-! PROOF. The special values and the comparisons of the primitives (`40_arithmetic.md` R101 to R106). -/

namespace Sys2Proof.Machine

variable (v : F32) {a b : Bool} {u : Nat}

/-! ### A NaN operand -/

@[simp] theorem fadd_nan_left : fadd .nan v = .nan := rfl

@[simp] theorem fadd_nan_right : fadd v .nan = .nan := by
  cases v <;> rfl

@[simp] theorem fneg_nan : fneg .nan = .nan := rfl

@[simp] theorem fsub_nan_left : fsub .nan v = .nan := fadd_nan_left _

@[simp] theorem fsub_nan_right : fsub v .nan = .nan := fadd_nan_right v

@[simp] theorem fmul_nan_left : fmul .nan v = .nan := rfl

@[simp] theorem fmul_nan_right : fmul v .nan = .nan := by
  cases v <;> rfl

@[simp] theorem fdiv_nan_left : fdiv .nan v = .nan := rfl

@[simp] theorem fdiv_nan_right : fdiv v .nan = .nan := by
  cases v <;> rfl

@[simp] theorem flt_nan_left : flt .nan v = false := rfl

@[simp] theorem flt_nan_right : flt v .nan = false := by
  cases v <;> rfl

@[simp] theorem feq_nan_left : feq .nan v = false := rfl

@[simp] theorem feq_nan_right : feq v .nan = false := by
  cases v <;> rfl

/-! ### Comparisons of finite values -/

section

variable (a b : Bool) (u v : Nat)

theorem fle_fin : fle (.fin a u) (.fin b v) = decide ((F32.fin a u).real ≤ (F32.fin b v).real) := by
  simp only [fle, flt, feq, le_iff_lt_or_eq, Bool.decide_or]

theorem fge_fin : fge (.fin a u) (.fin b v) = decide ((F32.fin a u).real ≥ (F32.fin b v).real) := by
  simp only [fge, flt, feq, ge_iff_le, le_iff_lt_or_eq, Bool.decide_or, eq_comm]

end

/-! ### Infinities and zeros -/

section

variable {x : F32}

theorem fsub_inf (a b : Bool) : fsub (.inf a) (.inf b) = if a = b then .nan else .inf a := by
  cases a <;> cases b <;> rfl

theorem roundF32_zero_of_ne (neg : Bool) (h : u ≠ 0) : roundF32 neg 0 u = .fin neg 0 := by
  simpa using roundF32_exact neg fzero_representable (Nat.pos_of_ne_zero h)

theorem fdiv_zero_left (h : u ≠ 0) : fdiv (.fin a 0) (.fin b u) = .fin (a != b) 0 := by
  rw [fdiv, if_neg h, Nat.zero_mul, roundF32_zero_of_ne _ h]

theorem fdiv_zero_right (a b : Bool) (u : Nat) :
    fdiv (.fin a u) (.fin b 0) = if u = 0 then .nan else .inf (a != b) := by
  rw [fdiv, if_pos rfl]

/-- Every other value that is no NaN is above the negative infinity and below the positive one, and equal to neither. -/
theorem compare_inf (hx : x ∈ [F32.fin b u, .inf (!a)]) :
    flt (.inf a) x = a ∧ flt x (.inf a) = !a ∧ feq (.inf a) x = false ∧ feq x (.inf a) = false := by
  obtain rfl | rfl := List.mem_pair.mp hx
  · exact ⟨rfl, rfl, rfl, rfl⟩
  · cases a <;> exact ⟨rfl, rfl, rfl, rfl⟩

end

/-- Settles O34: each rule is a branch of its primitive; the comparisons other than `flt` and `feq` follow from those two. -/
theorem specialValueRules : Obligations.SpecialValueRules := by
  refine ⟨fun v => ?nan, fun a b => ⟨rfl, fsub_inf a b, rfl, rfl, rfl, rfl, rfl, rfl, fdiv_zero_right a b 0⟩,
    fun a b u => ⟨rfl, rfl, rfl, rfl, rfl, rfl⟩, fun a b u hu => ?zeros,
    fun v => ?nanCompare, fun a b u v => ⟨rfl, rfl, fle_fin a b u v, fge_fin a b u v, rfl⟩,
    fun a u x hx => ?negInf, fun a u x hx => ?posInf, fun a => ?infSelf⟩
  case nan => simp [fabs]
  case zeros => exact ⟨if_neg hu, if_neg hu, by rw [fdiv_zero_right, if_neg hu], fdiv_zero_left hu⟩
  case nanCompare => simp [fgt, fle, fge]
  case negInf => simp [fgt, fle, fge, compare_inf (a := true) hx]
  case posInf => simp [fgt, fle, fge, compare_inf (a := false) hx]
  case infSelf => simp [fgt, fle, fge, flt, feq]

end Sys2Proof.Machine
end

section
/-! PROOF. Angles, the sine table and its reflection (`40_arithmetic.md` R115 to R118). -/

namespace Sys2Proof.Machine

variable {d r : Nat} (a : Int)

/-! ### Reduction of angles -/

theorem mod360_eq_iff : mod360 a = r ↔ r ≤ 359 ∧ (360 : Int) ∣ a - r := by
  unfold mod360
  omega

theorem mod360_lt : mod360 a < 360 := by
  unfold mod360
  omega

/-- Settles O37: the floored remainder is in range and divisibility fixes it. -/
theorem angleReductionIsFlooredModulo : Obligations.AngleReductionIsFlooredModulo := fun a =>
  have ⟨hle, hdvd⟩ := (mod360_eq_iff a).mp rfl
  ⟨hle, hdvd, fun _ hr h => ((mod360_eq_iff a).mpr ⟨hr, h⟩).symm⟩

theorem mod360_half_turn : mod360 (a + 180) = if mod360 a < 180 then mod360 a + 180 else mod360 a - 180 := by
  unfold mod360
  split <;> omega

theorem mod360_supplement (h : mod360 a ≤ 180) : mod360 (180 - a) = 180 - mod360 a := by
  unfold mod360 at *
  omega

/-! ### The table -/

theorem sineEntry_bounds (d : Nat) : 0 ≤ sineEntry d ∧ sineEntry d ≤ 32767 := by
  have entries : ∀ x ∈ sineTable, 0 ≤ x ∧ x ≤ 32767 := by decide
  unfold sineEntry
  rw [List.getD_eq_getElem?_getD]
  cases h : sineTable[d]? with
  | none => decide
  | some x => exact entries x (List.mem_of_getElem? h)

theorem sineEntry_zero : sineEntry 0 = 0 := rfl

/-! ### Reflection -/

theorem reflect_bounds (r : Nat) : -32767 ≤ reflect r ∧ reflect r ≤ 32767 := by
  have h₁ := sineEntry_bounds r
  have h₂ := sineEntry_bounds (180 - r)
  have h₃ := sineEntry_bounds (r - 180)
  have h₄ := sineEntry_bounds (360 - r)
  unfold reflect
  split_ifs <;> omega

theorem reflect_supplement (h : r ≤ 180) : reflect (180 - r) = reflect r := by
  unfold reflect
  obtain hr | rfl | hr : r < 90 ∨ r = 90 ∨ 90 < r := by omega
  · rw [if_neg (by omega), if_pos (by omega), if_pos hr.le, show 180 - (180 - r) = r by omega]
  · rfl
  · rw [if_pos (by omega), if_neg (by omega), if_pos h]

/-- Half a turn changes the sign: the quadrants above 180 degrees repeat those below it, negated (R116). -/
theorem reflect_half_turn (h : r < 180) : reflect (r + 180) = -reflect r := by
  unfold reflect
  obtain rfl | hpos := Nat.eq_zero_or_pos r
  · rfl
  · rw [if_neg (by omega), if_neg (by omega), if_congr (show r + 180 ≤ 270 ↔ r ≤ 90 by omega) rfl rfl, if_pos h.le,
      Nat.add_sub_cancel, show 360 - (r + 180) = 180 - r by omega, ← apply_ite Neg.neg]

/-! ### Sine and cosine -/

theorem isin_bounds : -32767 ≤ isin a ∧ isin a ≤ 32767 := reflect_bounds _

theorem isin_half_turn : isin (a + 180) = -isin a := by
  unfold isin
  rw [mod360_half_turn]
  split
  next h => exact reflect_half_turn h
  next h =>
    have half := reflect_half_turn (r := mod360 a - 180) (by have := mod360_lt a; omega)
    rw [Nat.sub_add_cancel (by omega)] at half
    rw [half, neg_neg]

theorem isin_supplement_of_le (h : mod360 a ≤ 180) : isin (180 - a) = isin a := by
  rw [isin, mod360_supplement a h, reflect_supplement h, isin]

/-- In the upper half turn this is the supplement of `a`, in the lower one that of `a + 180`. -/
theorem isin_neg : isin (-a) = -isin a := by
  have hhalf := isin_half_turn (-a)
  obtain h | h := Nat.lt_or_ge 180 (mod360 a)
  · have hle : mod360 (a + 180) ≤ 180 := by
      have := mod360_lt a
      rw [mod360_half_turn, if_neg (by omega)]
      omega
    rw [← isin_half_turn, ← isin_supplement_of_le (a + 180) hle]
    congr 1
    omega
  · rw [neg_add_eq_sub, isin_supplement_of_le a h] at hhalf
    omega

theorem isin_supplement : isin (180 - a) = isin a := by
  rw [← neg_add_eq_sub, isin_half_turn, isin_neg, neg_neg]

theorem isin_mod360_add : isin ((mod360 a : Int) + 90) = isin (a + 90) := by
  have h : mod360 ((mod360 a : Int) + 90) = mod360 (a + 90) := by
    unfold mod360
    omega
  rw [isin, h, isin]

theorem icos_eq_isin : icos a = isin (a + 90) := isin_mod360_add a

theorem icos_neg : icos (-a) = icos a := by
  rw [icos_eq_isin, icos_eq_isin, ← isin_supplement]
  congr 1
  omega

theorem tableScale_eq : tableScale = F32.ofWord 0x46FFFE00 := by
  rw [tableScale, i2f_exact (by decide)]
  decide

theorem icos_bounds : -32767 ≤ icos a ∧ icos a ≤ 32767 := isin_bounds _

/-- Settles O38: the quadrants reduce both symmetries to a half turn and a supplement. -/
theorem sineIsOddAndCosineEven : Obligations.SineIsOddAndCosineEven := by
  refine ⟨by decide, fun a => ⟨rfl, isin_neg a, icos_neg a, rfl, icos_eq_isin a, (isin_bounds a).1, (isin_bounds a).2,
    (icos_bounds a).1, (icos_bounds a).2, ?_, ?_⟩⟩
  · rw [fsin, tableScale_eq]
  · rw [fcos, tableScale_eq]

end Sys2Proof.Machine
end

section
/-! PROOF. The commands that compute `MAT` from the old `MAT` (`41_matrix_algebra.md` R131 to R140): what their completion
keeps, and the elements they leave, by row and column. -/

namespace Sys2Proof.Machine

variable {s : State} {α : Type}

/-! ### The completion -/

/-- A completion without a sticky flag, from a state that differs from `s` in `MAT` and the count of draws alone. -/
theorem onlyMatrixWritten_finish (m : Mat3 Word) (n : Nat) (ok : Bool) (code : Int) :
    OnlyMatrixWritten s ({ s with mat := m, draws := n }.finish ok code false false) where
  operands := by constructor <;> rfl
  sticky := ⟨(finish_ill ..).trans (Bool.or_false _), (finish_qovf ..).trans (Bool.or_false _)⟩
  recto := rfl
  comp := rfl

/-- Settles O39: the meaning writes the words of the identity and succeeds. -/
theorem midentSetsIdentity : Obligations.MidentSetsIdentity :=
  ⟨rfl, fun s => ⟨_, exec_mident s, rfl, completedWith_finish rfl rfl, onlyMatrixWritten_finish ..⟩⟩

/-- Settles O47: the meaning is `State.succeed`, which leaves `MAT` alone. -/
theorem mchkinvAlwaysTrue : Obligations.MchkinvAlwaysTrue :=
  ⟨rfl, fun s => ⟨_, exec_mchkinv s, completedWith_finish rfl rfl, onlyMatrixWritten_finish .., rfl⟩⟩

/-! ### Elements by row and column -/

/-- The row-major index of element `(r, c)` (R74). -/
def rowMajor (r c : Fin 3) : Fin 9 := ⟨3 * r.val + c.val, by omega⟩

theorem exists_rowMajor (k : Fin 9) : ∃ r c, rowMajor r c = k :=
  ⟨⟨k / 3, by omega⟩, ⟨k % 3, by omega⟩, Fin.ext (Nat.div_add_mod ..)⟩

/-- Element `(r, c)` of a matrix (R74). -/
def Mat3.entry (m : Mat3 α) (r c : Fin 3) : α := m.get (rowMajor r c)

theorem matAt_eq_entry (s : State) : s.matAt = s.matrix.entry :=
  funext₂ fun _ _ => (Mat3.get_map ..).symm

theorem opmAt_eq_entry (s : State) : s.opmAt = s.multiplier.entry :=
  funext₂ fun _ _ => (Mat3.get_map ..).symm

theorem rowsAt_eq_entry (a b c d e f g h i : F32) :
    rowsAt (a, b, c) (d, e, f) (g, h, i) = Mat3.entry ⟨a, b, c, d, e, f, g, h, i⟩ := by
  funext r c
  fin_cases r <;> fin_cases c <;> rfl

theorem matMul_entry (m b : Mat3 F32) (r c : Fin 3) :
    (matMul m b).entry r c =
      dot3 (m.entry r 0) (b.entry 0 c) (m.entry r 1) (b.entry 1 c) (m.entry r 2) (b.entry 2 c) := by
  fin_cases r <;> fin_cases c <;> rfl

theorem inverse_entry (m : Mat3 F32) (r c : Fin 3) :
    (inverse m).entry r c = fdiv ((adjugate m).entry r c) (determinant m) :=
  Mat3.get_map ..

/-! ### The delivered matrix -/

@[simp] theorem matrixWords_get (n : Nat) (m : Mat3 F32) (k : Fin 9) :
    (matrixWords n m).get k = (m.get k).toWord (Config.freeWord (n + k)) :=
  Mat3.get_mapIdx ..

/-- A representable element is read back from `MAT` as the value that was delivered. -/
theorem matAt_writeMatrix {m : Mat3 F32} {r c : Fin 3} (h : (m.entry r c).Representable) :
    (s.writeMatrix m).succeed.matAt r c = m.entry r c := by
  rw [State.matAt, succeed_mat, writeMatrix_mat, matrixWords_get]
  exact ofWord_toWord _ h

theorem matMul_representable (m b : Mat3 F32) (r c : Fin 3) : ((matMul m b).entry r c).Representable := by
  rw [matMul_entry]
  exact fadd_representable ..

theorem inverse_representable (m : Mat3 F32) (r c : Fin 3) : ((inverse m).entry r c).Representable := by
  rw [inverse_entry]
  exact fdiv_representable ..

theorem matAt_composeWith (b : Mat3 F32) (r c : Fin 3) : (s.composeWith b).matAt r c = s.productAt b.entry r c := by
  rw [State.composeWith, matAt_writeMatrix (matMul_representable ..), matMul_entry, State.productAt, matAt_eq_entry, dot3]

/-! ### The results -/

/-- A command that composes `MAT` with `b` leaves the product, and completes with success (R131, R134). -/
theorem composeWith_result {i : Instr} {b : Mat3 F32} (h : exec i s = .next (s.composeWith b)) :
    ∃ t, exec i s = .next t ∧ (∀ r c, t.matAt r c = s.productAt b.entry r c) ∧ CompletedWith s t true 0 ∧
      OnlyMatrixWritten s t :=
  ⟨_, h, matAt_composeWith b, completedWith_finish rfl rfl, onlyMatrixWritten_finish ..⟩

/-- Settles O40: the right factor is `OPM`. -/
theorem mmulResult : Obligations.MmulResult := by
  refine ⟨rfl, fun s => ?_⟩
  rw [opmAt_eq_entry]
  exact composeWith_result (exec_mmul s)

/-- Settles O41: the right factor is `translation`. -/
theorem mtransResult : Obligations.MtransResult := by
  refine ⟨rfl, fun s => ?_⟩
  rw [rowsAt_eq_entry]
  exact composeWith_result (exec_mtrans s)

/-- Settles O42: the right factor is `scaling`. -/
theorem mscaleResult : Obligations.MscaleResult := by
  refine ⟨rfl, fun s => ?_⟩
  rw [rowsAt_eq_entry]
  exact composeWith_result (exec_mscale s)

/-- Settles O43: the right factor is `rotation`, whose divisor 32767.0 is the pattern 0x46FFFE00 (R117). -/
theorem mrotResult : Obligations.MrotResult := by
  refine ⟨rfl, fun s => ?_⟩
  simp only [rowsAt_eq_entry, ← tableScale_eq]
  exact composeWith_result (exec_mrot s)

/-- Settles O44: the right factor is `perspective`. -/
theorem mperspResult : Obligations.MperspResult := by
  refine ⟨rfl, fun s => ?_⟩
  rw [rowsAt_eq_entry]
  exact composeWith_result (exec_mpersp s)

theorem exec_minv_matAt {t : State} (h : exec .minv s = .next t) (r c : Fin 3) :
    t.matAt r c = fdiv ((adjugate s.matrix).entry r c) (determinant s.matrix) := by
  cases h
  rw [matAt_writeMatrix (inverse_representable ..), inverse_entry]

/-- Settles O45: the rows of cofactors are the adjugate, and its first column gives the determinant. -/
theorem minvResult : Obligations.MinvResult := by
  refine ⟨rfl, fun s => ⟨_, exec_minv s, ?_, completedWith_finish rfl rfl, onlyMatrixWritten_finish ..⟩⟩
  simp only [matAt_eq_entry s, rowsAt_eq_entry]
  exact exec_minv_matAt (exec_minv s)

end Sys2Proof.Machine
end

section
/-! PROOF. MINV without an inverse (`41_matrix_algebra.md` R139, `60_exceptions.md` R214). -/

namespace Sys2Proof.Machine

/-- Every element of a matrix is a factor in its determinant. -/
theorem determinant_of_nan {m : Mat3 F32} {k : Fin 9} (h : m.get k = .nan) : determinant m = .nan := by
  fin_cases k <;> simp only [Mat3.get] at h <;> simp [determinant, adjugate, dot3, diff2, h]

/-- Nothing divided by a zero is finite (R104). -/
theorem fdiv_zero_not_finite (v : F32) (neg : Bool) : (fdiv v (.fin neg 0)).isFinite = false := by
  cases v with
  | nan | inf => rfl
  | fin a u =>
    rw [fdiv_zero_right]
    split <;> rfl

/-- Settles O46: each element is a quotient by the determinant, whatever that is. -/
theorem minvFailsSilently : Obligations.MinvFailsSilently := by
  intro s t hexec
  have hmat := exec_minv_matAt hexec
  refine ⟨fun ⟨i, j, hnan⟩ r c => ?_, fun ⟨neg, hdet⟩ r c => ?_, ?_⟩
  · rw [matAt_eq_entry] at hnan
    rw [hmat, determinant_of_nan hnan, fdiv_nan_right]
  · rw [hmat, hdet, fdiv_zero_not_finite]
  · cases hexec
    exact ⟨succeed_ok _, rfl⟩

end Sys2Proof.Machine
end

section
/-! PROOF. A product with the identity (`41_matrix_algebra.md` R141). -/

namespace Sys2Proof.Machine

variable {v w x y : F32}

/-! ### The primitives commute -/

theorem fadd_comm (v w : F32) : fadd v w = fadd w v := by
  cases v with
  | nan => rw [fadd_nan_left, fadd_nan_right]
  | inf a =>
    cases w with
    | inf b => cases a <;> cases b <;> rfl
    | _ => rfl
  | fin a u =>
    cases w with
    | fin b q =>
      have swap := add_comm (F32.fin a u).real (F32.fin b q).real
      by_cases h : (F32.fin a u).real + (F32.fin b q).real = 0
      · rw [fadd_fin_of_eq_zero h, fadd_fin_of_eq_zero (swap ▸ h)]
        simp only [and_comm]
      · rw [fadd_fin_of_ne_zero h, fadd_fin_of_ne_zero (swap ▸ h), swap]
    | _ => rfl

theorem fmul_comm (v w : F32) : fmul v w = fmul w v := by
  cases v with
  | nan => rw [fmul_nan_left, fmul_nan_right]
  | inf a =>
    cases w with
    | nan => rfl
    | _ => rw [fmul, fmul, bne_comm]
  | fin a u =>
    cases w with
    | nan => rfl
    | inf => rw [fmul, fmul, bne_comm]
    | fin => rw [fmul, fmul, bne_comm, Nat.mul_comm]

theorem dot3_comm (a₀ b₀ a₁ b₁ a₂ b₂ : F32) : dot3 a₀ b₀ a₁ b₁ a₂ b₂ = dot3 b₀ a₀ b₁ a₁ b₂ a₂ := by
  rw [dot3, dot3, fmul_comm a₀, fmul_comm a₁, fmul_comm a₂]

/-! ### Values up to the sign of a zero -/

theorem ne_nan_of_isFinite (h : v.isFinite = true) : v ≠ .nan := by
  rintro rfl
  cases h

theorem feq_self (h : v.isFinite = true) : feq v v = true := by
  cases v with
  | nan | inf => cases h
  | fin => exact decide_eq_true rfl

/-- `w` is `v`, but for a `-0.0` that may have become `+0.0`. -/
def KeepsValue (v w : F32) : Prop := w = v ∨ v = .fin true 0 ∧ w = fzero

theorem fadd_zeros (a b : Bool) : fadd (.fin a 0) (.fin b 0) = .fin (a && b) 0 := by
  cases a <;> cases b <;> decide

theorem fmul_fzero (h : v.isFinite = true) : ∃ neg, fmul v fzero = .fin neg 0 := by
  cases v with
  | nan | inf => cases h
  | fin a u => exact ⟨_, roundF32_zero_of_ne _ (by decide)⟩

theorem KeepsValue.fadd_zero (h : KeepsValue v w) (hrep : v.Representable) (hfin : v.isFinite = true) (b : Bool) :
    KeepsValue v (fadd w (.fin b 0)) := by
  obtain rfl | ⟨rfl, rfl⟩ := h
  · cases w with
    | nan | inf => cases hfin
    | fin a u =>
      obtain rfl | hu := Nat.eq_zero_or_pos u
      · rw [fadd_zeros, KeepsValue, fzero]
        cases a <;> cases b <;> decide
      · exact .inl (fadd_zero_right hrep hu.ne')
  · exact .inr ⟨rfl, fadd_zeros false b⟩

/-- A value that keeps that of a register is delivered as the register's bits, but for a `-0.0` (R141). -/
theorem KeepsValue.toWord {p : Word} (h : KeepsValue (F32.ofWord p) w) (hfin : (F32.ofWord p).isFinite = true) (draw : Word) :
    feq (F32.ofWord (w.toWord draw)) (F32.ofWord p) = true ∧
      (w.toWord draw = p ∨ p = 0x80000000 ∧ w.toWord draw = 0) := by
  obtain rfl | ⟨hp, rfl⟩ := h
  · rw [toWord_ofWord draw p (ne_nan_of_isFinite hfin)]
    exact ⟨feq_self hfin, .inl rfl⟩
  · rw [ofWord_toWord draw fzero_representable, hp]
    exact ⟨by decide, .inr ⟨ofWord_eq_negZero_iff.mp hp, rfl⟩⟩

/-! ### One element: the other two products are zeros -/

section

variable (hrep : v.Representable) (hv : v.isFinite = true) (hx : x.isFinite = true) (hy : y.isFinite = true)
include hrep hv hx hy

theorem dot3_one_first : KeepsValue v (dot3 v fone x fzero y fzero) := by
  obtain ⟨a, ha⟩ := fmul_fzero hx
  obtain ⟨b, hb⟩ := fmul_fzero hy
  rw [dot3, fmul_fone hrep (ne_nan_of_isFinite hv), ha, hb]
  exact (KeepsValue.fadd_zero (.inl rfl) hrep hv a).fadd_zero hrep hv b

theorem dot3_one_second : KeepsValue v (dot3 x fzero v fone y fzero) := by
  rw [dot3, fadd_comm (fmul x fzero)]
  exact dot3_one_first hrep hv hx hy

theorem dot3_one_third : KeepsValue v (dot3 x fzero y fzero v fone) := by
  obtain ⟨a, ha⟩ := fmul_fzero hx
  obtain ⟨b, hb⟩ := fmul_fzero hy
  rw [dot3, fmul_fone hrep (ne_nan_of_isFinite hv), ha, hb, fadd_zeros, fadd_comm]
  exact KeepsValue.fadd_zero (.inl rfl) hrep hv (a && b)

end

/-! ### The product -/

/-- The identity, as values (R133). -/
def identityMatrix : Mat3 F32 := ⟨fone, fzero, fzero, fzero, fone, fzero, fzero, fzero, fone⟩

theorem map_ofWord_identityWords : identityWords.map F32.ofWord = identityMatrix := by
  decide

section

variable {m : Mat3 F32} (hrep : ∀ r c, (m.entry r c).Representable) (hfin : ∀ r c, (m.entry r c).isFinite = true)
include hrep hfin

theorem matMul_identity_right (r c : Fin 3) : KeepsValue (m.entry r c) ((matMul m identityMatrix).entry r c) := by
  rw [matMul_entry]
  fin_cases c
  · exact dot3_one_first (hrep r 0) (hfin r 0) (hfin r 1) (hfin r 2)
  · exact dot3_one_second (hrep r 1) (hfin r 1) (hfin r 0) (hfin r 2)
  · exact dot3_one_third (hrep r 2) (hfin r 2) (hfin r 0) (hfin r 1)

theorem matMul_identity_left (r c : Fin 3) : KeepsValue (m.entry r c) ((matMul identityMatrix m).entry r c) := by
  rw [matMul_entry, dot3_comm]
  fin_cases r
  · exact dot3_one_first (hrep 0 c) (hfin 0 c) (hfin 1 c) (hfin 2 c)
  · exact dot3_one_second (hrep 1 c) (hfin 1 c) (hfin 0 c) (hfin 2 c)
  · exact dot3_one_third (hrep 2 c) (hfin 2 c) (hfin 0 c) (hfin 1 c)

end

/-- Settles O48: on either side each element of the product keeps the value of the matrix's element. -/
theorem identityProductKeepsFiniteMatrix : Obligations.IdentityProductKeepsFiniteMatrix := by
  intro s t m hfin hside hexec k
  obtain ⟨r, c, rfl⟩ := exists_rowMajor k
  have hentry (i j : Fin 3) : (m.map F32.ofWord).entry i j = F32.ofWord (m.get (rowMajor i j)) := Mat3.get_map ..
  have hrep (i j : Fin 3) : ((m.map F32.ofWord).entry i j).Representable := hentry i j ▸ ofWord_representable _
  have hfin' (i j : Fin 3) : ((m.map F32.ofWord).entry i j).isFinite = true := hentry i j ▸ hfin _
  have hkeeps : KeepsValue (F32.ofWord (m.get (rowMajor r c))) ((matMul s.matrix s.multiplier).entry r c) := by
    rw [State.matrix, State.multiplier, ← hentry]
    obtain ⟨hmat, hopm⟩ | ⟨hmat, hopm⟩ := hside
    · rw [hmat, hopm]
      exact map_ofWord_identityWords ▸ matMul_identity_right hrep hfin' r c
    · rw [hmat, hopm]
      exact map_ofWord_identityWords ▸ matMul_identity_left hrep hfin' r c
  cases hexec
  rw [composeWith_mat, matrixWords_get]
  exact hkeeps.toWord (hfin _) _

end Sys2Proof.Machine
end

section
/-! PROOF. The pivot search (`42_transform_solver.md` R152): among the rows up to any one, the search holds the first of
largest magnitude. -/

namespace Sys2Proof.Machine

variable {v w x : F32} {a : Augmented} {k : Nat}

/-! ### The order of the comparisons -/

theorem flt_irrefl (v : F32) : flt v v = false := by
  cases v with
  | nan => rfl
  | inf a => cases a <;> rfl
  | fin => simp [flt]

theorem flt_trans (hvw : flt v w = true) (hwx : flt w x = true) : flt v x = true := by
  cases w with
  | nan => simp at hvw
  | inf | fin => cases v <;> cases x <;> grind [flt]

theorem flt_of_flt_of_feq (hvw : flt v w = true) (hxw : feq x w = true) : flt v x = true := by
  cases w with
  | nan => simp at hvw
  | inf | fin => cases v <;> cases x <;> grind [flt, feq]

theorem fgt_of_fge (h : fge v w = false) : fgt v w = false :=
  (Bool.or_eq_false_iff.mp h).1

/-- What is not above `v` does not reach anything above `v`. -/
theorem fge_of_fgt_of_not_fgt (hx : fgt x v = false) (hw : fgt w v = true) : fge x w = false := by
  rw [fgt] at hx hw
  rw [fge, Bool.or_eq_false_iff, ← Bool.not_eq_true, ← Bool.not_eq_true]
  constructor
  · intro hlt
    simp [flt_trans hw hlt] at hx
  · intro heq
    simp [flt_of_flt_of_feq hw heq] at hx

/-! ### The search -/

/-- `best` is the first row of largest magnitude in column `k` among rows `k` to `last`, with that magnitude. -/
structure FirstLargest (a : Augmented) (k last : Nat) (best : Nat × F32) : Prop where
  le_row : k ≤ best.1
  row_le : best.1 ≤ last
  magnitude : best.2 = fabs (a.entry best.1 k)
  largest : ∀ r, k ≤ r → r ≤ last → fgt (fabs (a.entry r k)) best.2 = false
  first : ∀ r, k ≤ r → r < best.1 → fge (fabs (a.entry r k)) best.2 = false

theorem firstLargest_start (a : Augmented) (k : Nat) : FirstLargest a k k (k, fabs (a.entry k k)) where
  le_row := le_rfl
  row_le := le_rfl
  magnitude := rfl
  largest r hk hr := by
    obtain rfl := Nat.le_antisymm hk hr
    exact flt_irrefl _
  first r hk hr := absurd hr hk.not_gt

/-- One comparison with the next row keeps the best so far. -/
theorem FirstLargest.after_comparison {last : Nat} {best : Nat × F32} (h : FirstLargest a k last best) :
    FirstLargest a k (last + 1) (betterPivot a k best (last + 1)) := by
  obtain ⟨hle, hrow, hmag, hlargest, hfirst⟩ := h
  rw [betterPivot]
  split
  next hgt =>
    have below (r : Nat) (hk : k ≤ r) (hr : r < last + 1) :
        fge (fabs (a.entry r k)) (fabs (a.entry (last + 1) k)) = false :=
      fge_of_fgt_of_not_fgt (hlargest r hk (Nat.le_of_lt_succ hr)) hgt
    refine ⟨by omega, le_rfl, rfl, fun r hk hr => ?_, below⟩
    obtain hlt | rfl := hr.lt_or_eq
    · exact fgt_of_fge (below r hk hlt)
    · exact flt_irrefl _
  next hgt =>
    refine ⟨hle, by omega, hmag, fun r hk hr => ?_, hfirst⟩
    obtain hlt | rfl := hr.lt_or_eq
    · exact hlargest r hk (Nat.le_of_lt_succ hlt)
    · exact Bool.eq_false_iff.mpr hgt

theorem firstLargest_scan (a : Augmented) (k n : Nat) :
    FirstLargest a k (k + n) ((List.range' (k + 1) n).foldl (betterPivot a k) (k, fabs (a.entry k k))) := by
  induction n with
  | zero => exact firstLargest_start a k
  | succ n ih =>
    rw [List.range'_1_concat, List.foldl_concat, Nat.add_right_comm k 1 n]
    exact ih.after_comparison

theorem findPivot_firstLargest (a : Augmented) (hk : k ≤ 7) : FirstLargest a k 7 (findPivot a k) := by
  have h := firstLargest_scan a k (7 - k)
  rwa [Nat.add_sub_cancel' hk] at h

/-- Settles O49: the search has compared all rows from `k` to 7. -/
theorem pivotIsFirstLargest : Obligations.PivotIsFirstLargest := by
  intro a k hk
  obtain ⟨hle, hrow, hmag, hlargest, hfirst⟩ := findPivot_firstLargest a hk
  exact ⟨hle, hrow, hmag, hlargest, hfirst⟩

end Sys2Proof.Machine
end

section
/-! PROOF. The elimination, entry by entry (`42_transform_solver.md` R152, R154), and the shape of the system it keeps. -/

namespace Sys2Proof.Machine

variable {a b : Augmented} {pivot row : List F32} {f : F32} {k p r c : Nat}

/-- Eight rows of nine columns (R151). -/
structure Augmented.Shaped (a : Augmented) : Prop where
  length_eq : a.length = 8
  row_length : ∀ row ∈ a, row.length = 9

theorem Augmented.Shaped.length_getD (h : a.Shaped) (hr : r ≤ 7) : (a.getD r []).length = 9 := by
  rw [List.getD_eq_getElem _ _ (by have := h.length_eq; omega)]
  exact h.row_length _ (List.getElem_mem _)

/-- A system is given by its rows. -/
theorem shaped_iff : a.Shaped ↔ a.length = 8 ∧ ∀ r ≤ 7, (a.getD r []).length = 9 := by
  refine ⟨fun h => ⟨h.length_eq, fun r => h.length_getD⟩, fun ⟨hlength, hrows⟩ => ⟨hlength, fun row hrow => ?_⟩⟩
  obtain ⟨r, hr, rfl⟩ := List.getElem_of_mem hrow
  rw [← List.getD_eq_getElem _ [] hr]
  exact hrows r (by omega)

/-! ### The exchange of rows -/

theorem swap_le (hk : k ≤ 7) (hp : p ≤ 7) (hr : r ≤ 7) : Equiv.swap k p r ≤ 7 := by
  rw [Equiv.swap_apply_def]
  split
  · exact hp
  · split
    · exact hk
    · exact hr

theorem swapRows_getD (h : a.Shaped) (hk : k ≤ 7) (hp : p ≤ 7) :
    (swapRows a k p).getD r [] = a.getD (Equiv.swap k p r) [] := by
  replace hk : k < a.length := by rw [h.length_eq]; omega
  replace hp : p < a.length := by rw [h.length_eq]; omega
  rw [swapRows]
  obtain rfl | hrp := eq_or_ne r p
  · simp [hp]
  · obtain rfl | hrk := eq_or_ne r k
    · simp [hk, hrp.symm]
    · simp [hrp.symm, hrk.symm, Equiv.swap_apply_of_ne_of_ne hrk hrp]

theorem swapRows_entry (h : a.Shaped) (hk : k ≤ 7) (hp : p ≤ 7) :
    (swapRows a k p).entry r c = a.entry (Equiv.swap k p r) c := by
  rw [Augmented.entry, swapRows_getD h hk hp, Augmented.entry]

theorem swapRows_shaped (h : a.Shaped) (hk : k ≤ 7) (hp : p ≤ 7) : (swapRows a k p).Shaped := by
  refine shaped_iff.mpr ⟨by simp [swapRows, h.length_eq], fun r hr => ?_⟩
  rw [swapRows_getD h hk hp]
  exact h.length_getD (swap_le hk hp hr)

/-! ### The reduction -/

theorem reduceRow_length (hpivot : pivot.length = 9) (hrow : row.length = 9) (hk : k ≤ 8) :
    (reduceRow pivot row k f).length = 9 := by
  simp [reduceRow, hpivot, hrow]
  omega

theorem reduceRow_getD (hpivot : pivot.length = 9) (hrow : row.length = 9) (hk : k ≤ 8) (hc : c ≤ 8) :
    (reduceRow pivot row k f).getD c fzero =
      if k ≤ c then fsub (row.getD c fzero) (fmul f (pivot.getD c fzero)) else row.getD c fzero := by
  have htake : (row.take k).length = k := by simp [hrow]; omega
  rw [reduceRow]
  split
  next hkc =>
    rw [List.getD_append_right _ _ _ _ (by omega), htake, List.getD_eq_getElem _ _ (by simp; omega),
      List.getD_eq_getElem _ _ (by omega), List.getD_eq_getElem _ _ (by omega)]
    simp [Nat.add_sub_cancel' hkc]
  next hkc =>
    rw [List.getD_append _ _ _ _ (by omega), List.getD_eq_getElem _ _ (by omega), List.getD_eq_getElem _ _ (by omega),
      List.getElem_take]

theorem reduceBelow_getD (h : a.Shaped) (hr : r ≤ 7) :
    (reduceBelow a k).getD r [] =
      if k < r then reduceRow (a.getD k []) (a.getD r []) k (fdiv (a.entry r k) (a.entry k k)) else a.getD r [] := by
  replace hr : r < a.length := by rw [h.length_eq]; omega
  rw [reduceBelow]
  split
  next hkr =>
    have htake : (a.take (k + 1)).length = k + 1 := by simp; omega
    rw [List.getD_append_right _ _ _ _ (by omega), htake, List.getD_eq_getElem _ _ (by simp; omega)]
    simp [Augmented.entry, Nat.add_sub_cancel' hkr, hr]
  next hkr =>
    have hlt : r < (a.take (k + 1)).length := by simp; omega
    rw [List.getD_append _ _ _ _ hlt, List.getD_eq_getElem _ _ hlt, List.getElem_take, List.getD_eq_getElem _ _ hr]

theorem reduceBelow_shaped (h : a.Shaped) (hk : k ≤ 7) : (reduceBelow a k).Shaped := by
  refine shaped_iff.mpr ⟨by simp [reduceBelow, h.length_eq]; omega, fun r hr => ?_⟩
  rw [reduceBelow_getD h hr]
  split
  · exact reduceRow_length (h.length_getD hk) (h.length_getD hr) (by omega)
  · exact h.length_getD hr

theorem reduceBelow_entry (h : a.Shaped) (hk : k ≤ 7) (hr : r ≤ 7) (hc : c ≤ 8) :
    (reduceBelow a k).entry r c =
      if k < r ∧ k ≤ c then fsub (a.entry r c) (fmul (fdiv (a.entry r k) (a.entry k k)) (a.entry k c))
      else a.entry r c := by
  rw [Augmented.entry, reduceBelow_getD h hr, ite_and]
  split
  · exact reduceRow_getD (h.length_getD hk) (h.length_getD hr) (by omega) hc
  · rfl

/-! ### One step -/

theorem epsilon_eq : F32.ofWord 0x34000000 = epsilon := by decide

theorem eliminateStep_none (h : flt (findPivot a k).2 epsilon = true) : eliminateStep a k = none :=
  if_pos h

theorem eliminateStep_some (h : flt (findPivot a k).2 epsilon = false) :
    eliminateStep a k = some (reduceBelow (swapRows a k (findPivot a k).1) k) :=
  if_neg (Bool.eq_false_iff.mp h)

theorem eliminateStep_inv (h : eliminateStep a k = some b) :
    flt (findPivot a k).2 epsilon = false ∧ b = reduceBelow (swapRows a k (findPivot a k).1) k := by
  cases hpivot : flt (findPivot a k).2 epsilon with
  | true => simp [eliminateStep_none hpivot] at h
  | false =>
    rw [eliminateStep_some hpivot] at h
    exact ⟨rfl, (Option.some.inj h).symm⟩

theorem eliminateStep_shaped (h : eliminateStep a k = some b) (ha : a.Shaped) (hk : k ≤ 7) : b.Shaped := by
  obtain ⟨-, rfl⟩ := eliminateStep_inv h
  exact reduceBelow_shaped (swapRows_shaped ha hk (findPivot_firstLargest a hk).row_le) hk

/-- What a step that does not fail leaves in each entry, by the entries before it (R152). -/
theorem eliminateStep_entry (h : eliminateStep a k = some b) (ha : a.Shaped) (hk : k ≤ 7) (hr : r ≤ 7) (hc : c ≤ 8) :
    let old := fun r c => a.entry (Equiv.swap k (findPivot a k).1 r) c
    b.entry r c = if k < r ∧ k ≤ c then fsub (old r c) (fmul (fdiv (old r k) (old k k)) (old k c)) else old r c := by
  obtain ⟨-, rfl⟩ := eliminateStep_inv h
  have hp := (findPivot_firstLargest a hk).row_le
  rw [reduceBelow_entry (swapRows_shaped ha hk hp) hk hr hc]
  simp only [swapRows_entry ha hk hp]

/-! ### The eight steps -/

theorem eliminate_eq (a : Augmented) :
    eliminate a =
      (((((((eliminateStep a 0).bind fun a => eliminateStep a 1).bind fun a => eliminateStep a 2).bind
        fun a => eliminateStep a 3).bind fun a => eliminateStep a 4).bind fun a => eliminateStep a 5).bind
        fun a => eliminateStep a 6).bind fun a => eliminateStep a 7 := by
  simp [eliminate, Option.bind_assoc]

theorem eliminateSteps_shaped {ks : List Nat} (hks : ∀ k ∈ ks, k ≤ 7) (h : ks.foldlM eliminateStep a = some b)
    (ha : a.Shaped) : b.Shaped := by
  induction ks generalizing a with
  | nil => exact Option.some.inj h ▸ ha
  | cons k ks ih =>
    obtain ⟨a', hstep, hrest⟩ := Option.bind_eq_some_iff.mp h
    rw [List.forall_mem_cons] at hks
    exact ih hks.2 hrest (eliminateStep_shaped hstep ha hks.1)

theorem eliminate_shaped (h : eliminate a = some b) (ha : a.Shaped) : b.Shaped :=
  eliminateSteps_shaped (by decide) h ha

/-- Settles O50: the step is the exchange of rows followed by the reduction. -/
theorem eliminationStepFollowsRule : Obligations.EliminationStepFollowsRule := by
  rw [Obligations.EliminationStepFollowsRule, epsilon_eq]
  refine ⟨eliminate_eq, fun a k hk hlength hrows => ⟨eliminateStep_none, fun hpivot => ?_⟩⟩
  have hstep := eliminateStep_some hpivot
  obtain ⟨hlength', hrows'⟩ := eliminateStep_shaped hstep ⟨hlength, hrows⟩ hk
  exact ⟨_, hstep, hlength', hrows', fun r c hr hc => eliminateStep_entry hstep ⟨hlength, hrows⟩ hk hr hc⟩

end Sys2Proof.Machine
end

section
/-! PROOF. MSOLVE: the system it assembles, the back substitution and the delivered unknowns (`42_transform_solver.md` R151,
R153, R154). -/

namespace Sys2Proof.Machine

variable {s : State} {a : Augmented} {u : List F32}

/-! ### The assembled system -/

theorem assemble_getD (src dst : Quad (Point F32)) (i : Fin 4) :
    (assemble src dst).getD (2 * i.val) [] = rowX (src.get i) (dst.get i) ∧
      (assemble src dst).getD (2 * i.val + 1) [] = rowY (src.get i) (dst.get i) := by
  fin_cases i <;> exact ⟨rfl, rfl⟩

theorem assemble_shaped (src dst : Quad (Point F32)) : (assemble src dst).Shaped where
  length_eq := rfl
  row_length := by simp [assemble, rowX, rowY]

/-! ### Back substitution -/

theorem backSubstitute_length (a : Augmented) : (backSubstitute a).length = 8 := rfl

/-- Each unknown is computed from those above it. -/
theorem backSubstitute_getD (a : Augmented) (k : Fin 8) :
    (backSubstitute a).getD k fzero = solveRow a ((backSubstitute a).drop (k + 1)) k := by
  fin_cases k <;> rfl

theorem drop_finRange_eight (k : Fin 8) :
    (List.finRange 8).drop (k + 1) = (List.finRange 8).filter fun c => decide (k < c) := by
  revert k
  decide

/-- The coefficients of a row paired with eight unknowns, by column; the right-hand side is left over. -/
theorem zip_unknowns {row : List F32} (hrow : row.length = 9) (hu : u.length = 8) :
    row.zip u = (List.finRange 8).map fun c : Fin 8 => (row.getD c fzero, u.getD c fzero) := by
  refine List.ext_getElem (by simp [hrow, hu]) fun i hi _ => ?_
  rw [List.length_zip] at hi
  simp [show i < row.length by omega, show i < u.length by omega]

/-- Row `k` solved for its unknown, as a sum over the columns above `k` (R153). -/
theorem solveRow_drop (ha : a.Shaped) (hu : u.length = 8) (k : Fin 8) :
    solveRow a (u.drop (k + 1)) k =
      fdiv ((List.finRange 8).foldl
          (fun acc c => if k < c then fsub acc (fmul (a.entry k c) (u.getD c fzero)) else acc) (a.entry k 8))
        (a.entry k k) := by
  rw [solveRow, List.zip_eq_zipWith, ← List.drop_zipWith, ← List.zip_eq_zipWith,
    zip_unknowns (ha.length_getD (by omega)) hu, ← List.map_drop, drop_finRange_eight, List.foldl_map, List.foldl_filter]
  simp [Augmented.entry]

/-! ### The delivered unknowns -/

theorem matrixOfUnknowns_get (u : List F32) (k : Fin 8) :
    (matrixOfUnknowns u).get ⟨k, by omega⟩ = u.getD k fzero := by
  fin_cases k <;> rfl

theorem toWord_fone (draw : Word) : fone.toWord draw = 0x3F800000 := rfl

theorem matrixWords_unknowns_last (n : Nat) (u : List F32) : (matrixWords n (matrixOfUnknowns u)).get 8 = 0x3F800000 := by
  rw [matrixWords_get]
  exact toWord_fone _

theorem backSubstitute_representable (a : Augmented) (k : Fin 8) : ((backSubstitute a).getD k fzero).Representable := by
  rw [backSubstitute_getD]
  exact fdiv_representable ..

/-- The words of `MAT` hold the unknowns exactly. -/
theorem ofWord_matrixWords_unknowns (n : Nat) (a : Augmented) (k : Fin 8) :
    F32.ofWord ((matrixWords n (matrixOfUnknowns (backSubstitute a))).get ⟨k, by omega⟩) =
      (backSubstitute a).getD k fzero := by
  rw [matrixWords_get, matrixOfUnknowns_get]
  exact ofWord_toWord _ (backSubstitute_representable a k)

/-! ### The outcome -/

theorem exec_msolve_of_none (h : eliminate (assemble s.sourcePoints s.destPoints) = none) :
    exec .msolve s = .next (s.fail solveFail) :=
  exec_msolve_none (by rw [solveTransform, h, Option.map_none])

theorem exec_msolve_of_some (h : eliminate (assemble s.sourcePoints s.destPoints) = some a) :
    exec .msolve s = .next (s.writeMatrix (matrixOfUnknowns (backSubstitute a))).succeed :=
  exec_msolve_some (by rw [solveTransform, h, Option.map_some])

/-- The failed elimination of R154. -/
theorem msolve_fails (h : eliminate (assemble s.sourcePoints s.destPoints) = none) :
    ∃ t, exec .msolve s = .next t ∧ CompletedWith s t false (-1) ∧ t.mat = s.mat :=
  ⟨_, exec_msolve_of_none h, completedWith_finish rfl rfl, rfl⟩

/-- Settles O51: by the outcome of the elimination. -/
theorem msolveResult : Obligations.MsolveResult := by
  refine ⟨rfl, fun s => ?_⟩
  have hshaped := assemble_shaped s.sourcePoints s.destPoints
  have hrows := assemble_getD s.sourcePoints s.destPoints
  cases h : eliminate (assemble s.sourcePoints s.destPoints) with
  | none =>
    exact ⟨_, exec_msolve_of_none h, onlyMatrixWritten_finish .., hshaped.length_eq, hrows,
      fun _ => ⟨completedWith_finish rfl rfl, rfl⟩, nofun⟩
  | some a =>
    refine ⟨_, exec_msolve_of_some h, onlyMatrixWritten_finish .., hshaped.length_eq, hrows, nofun, ?_⟩
    rintro _ ⟨⟩
    refine ⟨completedWith_finish rfl rfl, matrixWords_unknowns_last .., fun k => ?_⟩
    simp only [succeed_mat, writeMatrix_mat, ofWord_matrixWords_unknowns]
    rw [backSubstitute_getD, solveRow_drop (eliminate_shaped h hshaped) (backSubstitute_length a)]

end Sys2Proof.Machine
end

section
/-! PROOF. Source points whose elimination fails in its first steps fail for all destination points, which enter the last
columns only (`42_transform_solver.md` R151, R152, R154, R158 b). -/

namespace Sys2Proof.Machine

variable {a a' b b' : Augmented} {k m : Nat}

/-- The same entries in columns 0 to `m`. -/
def AgreeTo (m : Nat) (a a' : Augmented) : Prop := ∀ r c, r ≤ 7 → c ≤ m → a.entry r c = a'.entry r c

/-- The destination points enter columns 6 to 8 only (R151). -/
theorem assemble_agreeTo (src dst dst' : Quad (Point F32)) : AgreeTo 5 (assemble src dst) (assemble src dst') := by
  intro r c hr hc
  interval_cases r <;> interval_cases c <;> rfl

/-! ### Steps on columns that agree -/

section

variable (h : AgreeTo m a a') (hk : k ≤ m) (hm : m ≤ 7)
include h hk hm

theorem AgreeTo.findPivot_eq : findPivot a k = findPivot a' k := by
  rw [findPivot, findPivot, h k k (by omega) hk]
  refine List.foldl_ext _ _ _ fun best r hr => ?_
  rw [List.mem_range'_1] at hr
  rw [betterPivot, betterPivot, h r k (by omega) hk]

theorem AgreeTo.eliminateStep_none_iff : eliminateStep a k = none ↔ eliminateStep a' k = none := by
  simp [eliminateStep, h.findPivot_eq hk hm]

theorem AgreeTo.reduceBelow (ha : a.Shaped) (ha' : a'.Shaped) : AgreeTo m (reduceBelow a k) (reduceBelow a' k) := by
  intro r c hr hc
  rw [reduceBelow_entry ha (by omega) hr (by omega), reduceBelow_entry ha' (by omega) hr (by omega), h r c hr hc,
    h r k hr hk, h k k (by omega) hk, h k c (by omega) hc]

end

theorem AgreeTo.swapRows {p : Nat} (h : AgreeTo m a a') (hk : k ≤ 7) (hp : p ≤ 7) (ha : a.Shaped) (ha' : a'.Shaped) :
    AgreeTo m (swapRows a k p) (swapRows a' k p) := by
  intro r c hr hc
  rw [swapRows_entry ha hk hp, swapRows_entry ha' hk hp, h _ c (swap_le hk hp hr) hc]

/-- Neither the pivot nor the reduction of the first columns looks past them. -/
theorem AgreeTo.eliminateStep_some (h : AgreeTo m a a') (hk : k ≤ m) (hm : m ≤ 7) (ha : a.Shaped) (ha' : a'.Shaped)
    (hb : eliminateStep a k = some b) (hb' : eliminateStep a' k = some b') : AgreeTo m b b' := by
  obtain ⟨-, rfl⟩ := eliminateStep_inv hb
  obtain ⟨-, rfl⟩ := eliminateStep_inv hb'
  have hk7 := hk.trans hm
  have hp := (findPivot_firstLargest a' hk7).row_le
  rw [h.findPivot_eq hk hm]
  exact (h.swapRows hk7 hp ha ha').reduceBelow hk hm (swapRows_shaped ha hk7 hp) (swapRows_shaped ha' hk7 hp)

/-- Whether steps on the first columns fail is decided by those columns. -/
theorem AgreeTo.eliminateSteps_none {ks : List Nat} (h : AgreeTo m a a') (hm : m ≤ 7) (hks : ∀ k ∈ ks, k ≤ m)
    (ha : a.Shaped) (ha' : a'.Shaped) (hnone : ks.foldlM eliminateStep a' = none) :
    ks.foldlM eliminateStep a = none := by
  induction ks generalizing a a' with
  | nil => cases hnone
  | cons k ks ih =>
    obtain ⟨hk, hks⟩ := List.forall_mem_cons.mp hks
    rw [List.foldlM_cons] at hnone ⊢
    cases hb : eliminateStep a k with
    | none => rfl
    | some b =>
      cases hb' : eliminateStep a' k with
      | none => simp [(h.eliminateStep_none_iff hk hm).mpr hb'] at hb
      | some b' =>
        rw [hb'] at hnone
        exact ih (h.eliminateStep_some hk hm ha ha' hb hb') hks (eliminateStep_shaped hb ha (hk.trans hm))
          (eliminateStep_shaped hb' ha' (hk.trans hm)) hnone

/-! ### The points (0,0), (1,1), (2,2), (3,3) -/

/-- The points `(i, i)`, as values. -/
def diagonalPoints : Quad (Point F32) :=
  ⟨⟨i2f 0, i2f 0⟩, ⟨i2f 1, i2f 1⟩, ⟨i2f 2, i2f 2⟩, ⟨i2f 3, i2f 3⟩⟩

/-- Columns 0 and 1 are equal: step 0 leaves in both at most a rounding error below `EPS`, the pivot of step 1. -/
theorem diagonal_steps_none :
    [0, 1].foldlM eliminateStep (assemble diagonalPoints diagonalPoints) = none := by
  decide +kernel

theorem eliminate_diagonal (dst : Quad (Point F32)) : eliminate (assemble diagonalPoints dst) = none := by
  have hsteps : [0, 1].foldlM eliminateStep (assemble diagonalPoints dst) = none :=
    AgreeTo.eliminateSteps_none (assemble_agreeTo _ _ diagonalPoints) (by decide) (by decide) (assemble_shaped ..)
      (assemble_shaped ..) diagonal_steps_none
  change ([0, 1] ++ [2, 3, 4, 5, 6, 7]).foldlM eliminateStep _ = none
  rw [List.foldlM_append, hsteps]
  rfl

/-- Settles O52: the elimination fails at step 1. -/
theorem pointsZeroToThreeOnTheDiagonalFail : Obligations.PointsZeroToThreeOnTheDiagonalFail := by
  intro s hsrc
  have hpoints : s.sourcePoints = diagonalPoints := by
    rw [State.sourcePoints, hsrc]
    decide
  exact msolve_fails (hpoints ▸ eliminate_diagonal s.destPoints)

end Sys2Proof.Machine
end

section
/-! PROOF. The fixed-point codec: the word and the range of one element, and the completion of QENC
(`43_fixed_point_codec.md` R160 to R163). -/

namespace Sys2Proof.Machine

variable {neg : Bool} {u k : Nat}

/-! ### One element -/

/-- Scaling the units and dividing the magnitude truncates the exact product toward zero (R161). -/
theorem q16Integer_eq_tdiv (v : F32) : q16Integer v = Int.tdiv (v.real * 65536) (2 ^ 149) := by
  cases v with
  | nan | inf => rfl
  | fin neg u =>
    have hpos : ((u : Int) * 65536).tdiv (2 ^ 149) = (u * qscale / 2 ^ 149 : Nat) := rfl
    cases neg
    · exact hpos.symm
    · change -((u * qscale / 2 ^ 149 : Nat) : Int) = Int.tdiv (-(u : Int) * 65536) (2 ^ 149)
      rw [neg_mul, Int.neg_tdiv, hpos]

theorem overflowsQ16_iff (v : F32) :
    overflowsQ16 v = true ↔ v.isFinite = false ∨ q16Integer v < -2 ^ 31 ∨ 2 ^ 31 - 1 < q16Integer v := by
  simp only [overflowsQ16, inInt32, Bool.or_eq_true, Bool.not_eq_true', Bool.and_eq_false_iff, decide_eq_false_iff_not,
    not_le]

theorem q16Word_of_isFinite {v : F32} (h : v.isFinite = true) (draw : Word) : q16Word draw v = u32 (q16Integer v) :=
  if_pos h

@[simp] theorem q16Words_get (n : Nat) (m : Mat3 F32) (k : Fin 9) :
    (q16Words n m).get k = q16Word (Config.freeWord (n + k)) (m.get k) :=
  Mat3.get_mapIdx ..

/-- Settles O53: the nine words and the flag are those of the elements one by one, and the rest is the completion's. -/
theorem qencResult : Obligations.QencResult := by
  refine ⟨rfl, fun s => ⟨_, exec_qenc s, ⟨fun k hfin => ?_, ?_⟩, completedWith_finish rfl rfl, ?_, ?_, rfl, rfl⟩⟩
  · rw [finish_comp, q16Words_get, State.matrix, Mat3.get_map, q16Word_of_isFinite hfin, q16Integer_eq_tdiv, u32]
  · simp only [finish_qovf, Bool.or_eq_true, Mat3.any_eq_true_iff, State.matrix, Mat3.get_map, overflowsQ16_iff,
      q16Integer_eq_tdiv]
    exact Iff.rfl
  · constructor <;> rfl
  · exact (finish_ill ..).trans (Bool.or_false _)

/-! ### The range in binary32 -/

/-- From `2^23 * 2^k` units up, the spacing of binary32 is at least `2^k` (R70). -/
theorem two_pow_dvd_of_representable (h : (F32.fin neg u).Representable) (hu : 2 ^ 23 * 2 ^ k ≤ u) : 2 ^ k ∣ u := by
  have hne : u ≠ 0 := (hu.trans_lt' (by positivity)).ne'
  have hlog : 23 + k ≤ u.log2 := (Nat.le_log2 hne).mpr (pow_add 2 23 k ▸ hu)
  exact (pow_dvd_pow 2 (Nat.le_sub_of_add_le' hlog)).trans h.2

/-- Settles O54: 32768.0 is 2^31 scaled; below -32768.0 the values are whole multiples of 2^141 units, so the first of them
is the first whose integer is below -2^31. -/
theorem qencRangeInBinary32 : Obligations.QencRangeInBinary32 := by
  intro w
  have hrep := ofWord_representable w
  have hupper : F32.ofWord 0x47000000 = .fin false (2 ^ 23 * 2 ^ 141) := by decide
  have hlower : F32.ofWord 0xC7000001 = .fin true ((2 ^ 23 + 1) * 2 ^ 141) := by decide
  rw [overflowsQ16_iff, hupper, hlower]
  generalize F32.ofWord w = v at *
  cases v with
  | nan | inf => exact iff_of_true (.inl rfl) (.inl rfl)
  | fin neg u =>
    rw [fge_fin, fle_fin, decide_eq_true_iff, decide_eq_true_iff]
    refine or_congr_right ?_
    cases neg
    · have hbound : 2 ^ 31 ≤ u * 65536 / 2 ^ 149 ↔ 2 ^ 23 * 2 ^ 141 ≤ u := by omega
      simp only [q16Integer, F32.real, qscale, if_true, Bool.false_eq_true, if_false]
      omega
    · have hbound : 2 ^ 31 < u * 65536 / 2 ^ 149 ↔ (2 ^ 23 + 1) * 2 ^ 141 ≤ u := by
        have hgrid := two_pow_dvd_of_representable (k := 141) hrep
        omega
      simp only [q16Integer, F32.real, qscale, if_true, Bool.false_eq_true, if_false]
      omega

/-! ### The wrap to zero -/

/-- Settles O55: such an element is a whole multiple of 2^16, so its integer is one of 2^32. -/
theorem qencHugeElementsWrapToZero : Obligations.QencHugeElementsWrapToZero := by
  intro w draw hfin hhuge
  have hrep := ofWord_representable w
  rw [q16Word_of_isFinite hfin, q16Integer_eq_tdiv]
  generalize F32.ofWord w = v at *
  cases v with
  | nan | inf => cases hfin
  | fin neg u =>
    rw [Int.abs_eq_natAbs, natAbs_real_fin] at hhuge
    have hgrid : 2 ^ 165 ∣ (F32.fin neg u).real := by
      rw [← Int.natAbs_dvd_natAbs, natAbs_real_fin]
      exact two_pow_dvd_of_representable (k := 165) hrep (by omega)
    obtain ⟨m, hm⟩ := hgrid
    have hq : Int.tdiv ((F32.fin neg u).real * 65536) (2 ^ 149) = 2 ^ 32 * m := by
      rw [hm]
      exact Int.tdiv_eq_of_eq_mul_right (by decide) (by ring)
    rw [hq, u32, BitVec.ofInt_mul]
    exact BitVec.zero_mul

end Sys2Proof.Machine
end

section
/-! PROOF. What AREA and RISECT publish (`44_area_clip_projector.md` R170, R185; `60_exceptions.md` R212), and RISECT: the
shared pixels of two inclusive rectangles. -/

namespace Sys2Proof.Machine

variable {s : State} {a b : Sides}

/-! ### The completion -/

theorem onlyRectWritten_finish (x y w h : Int) (ok : Bool) (code : Int) :
    OnlyRectWritten s ((s.writeRectO x y w h).finish ok code false false) where
  operands := by constructor <;> rfl
  sticky := ⟨(finish_ill ..).trans (Bool.or_false _), (finish_qovf ..).trans (Bool.or_false _)⟩
  mat := rfl
  comp := rfl

/-- Whatever the result, `RECTO` and the outcome are all that publishing it changes. -/
theorem onlyRectWritten_publishRect (r : AreaResult) : OnlyRectWritten s (s.publishRect r) := by
  cases r with
  | rect => exact onlyRectWritten_finish ..
  | failure => exact onlyRectWritten_finish ..

theorem publishRect_failure (code : Int) :
    CompletedWith s (s.publishRect (.failure code)) false code ∧ (s.publishRect (.failure code)).recto = ⟨0, 0, 0, 0⟩ :=
  ⟨completedWith_finish rfl rfl, rfl⟩

theorem publishRect_rect (x y w h : Int) :
    CompletedWith s (s.publishRect (.rect x y w h)) true 0 ∧
      (s.publishRect (.rect x y w h)).recto = ⟨u32 x, u32 y, u32 w, u32 h⟩ :=
  ⟨completedWith_finish rfl rfl, rfl⟩

/-! ### Pixels -/

/-- The pixel `(x, y)` lies in an inclusive rectangle (R76, R185). -/
def Sides.Contains (r : Sides) (x y : Int) : Prop := r.left ≤ x ∧ x ≤ r.right ∧ r.top ≤ y ∧ y ≤ r.bottom

/-- The later of the left and top sides, the earlier of the right and bottom ones: `l`, `t`, `r`, `b` of R185. -/
def overlap (a b : Sides) : Sides :=
  ⟨max a.left b.left, max a.top b.top, min a.right b.right, min a.bottom b.bottom⟩

theorem overlap_contains_iff {x y : Int} : (overlap a b).Contains x y ↔ a.Contains x y ∧ b.Contains x y := by
  simp only [overlap, Sides.Contains, max_le_iff, le_min_iff]
  tauto

/-- A rectangle holds a pixel exactly when its sides are in order; its left top corner is then one. -/
theorem Sides.exists_contains_iff {r : Sides} : (∃ x y, r.Contains x y) ↔ r.left ≤ r.right ∧ r.top ≤ r.bottom := by
  constructor
  · rintro ⟨x, y, hleft, hright, htop, hbottom⟩
    exact ⟨hleft.trans hright, htop.trans hbottom⟩
  · rintro ⟨hwidth, hheight⟩
    exact ⟨r.left, r.top, le_rfl, hwidth, le_rfl, hheight⟩

theorem exists_shared_iff : (∃ x y, a.Contains x y ∧ b.Contains x y) ↔
    (overlap a b).left ≤ (overlap a b).right ∧ (overlap a b).top ≤ (overlap a b).bottom := by
  simp only [← overlap_contains_iff, Sides.exists_contains_iff]

theorem intersect_of_shared (h : ∃ x y, a.Contains x y ∧ b.Contains x y) :
    intersect a b = .rect (overlap a b).left (overlap a b).top (overlap a b).right (overlap a b).bottom :=
  if_pos (exists_shared_iff.mp h)

theorem intersect_of_not_shared (h : ¬∃ x y, a.Contains x y ∧ b.Contains x y) :
    intersect a b = .failure noOverlapCode :=
  if_neg (exists_shared_iff.not.mp h)

/-! ### The words of the result -/

theorem u32_s32 (w : Word) : u32 (s32 w) = w := BitVec.ofInt_toInt

theorem s32_u32_max (v w : Word) : s32 (u32 (max (s32 v) (s32 w))) = max (s32 v) (s32 w) := by
  obtain h | h := max_choice (s32 v) (s32 w) <;> rw [h, u32_s32]

theorem s32_u32_min (v w : Word) : s32 (u32 (min (s32 v) (s32 w))) = min (s32 v) (s32 w) := by
  obtain h | h := min_choice (s32 v) (s32 w) <;> rw [h, u32_s32]

/-- Each side of the overlap is a side of an operand, so `RECTO` reads back as the overlap. -/
theorem sidesOf_recto_of_shared {p q : Quad Word}
    (h : ∃ x y, (sidesOf p).Contains x y ∧ (sidesOf q).Contains x y) :
    sidesOf (s.publishRect (intersect (sidesOf p) (sidesOf q))).recto = overlap (sidesOf p) (sidesOf q) := by
  rw [intersect_of_shared h, (publishRect_rect ..).2]
  simp only [sidesOf, overlap, s32_u32_max, s32_u32_min]

/-- Settles O60: `RECTO` reads back as the overlap, which holds exactly the shared pixels. -/
theorem risectResult : Obligations.RisectResult := by
  refine ⟨rfl, fun s => ⟨_, exec_risect s, onlyRectWritten_publishRect _, fun shared => ?_, fun apart => ?_⟩⟩
  · replace shared : ∃ x y, (sidesOf s.recta).Contains x y ∧ (sidesOf s.rectb).Contains x y := shared
    refine ⟨?_, fun x y => ?_⟩
    · rw [intersect_of_shared shared]
      exact (publishRect_rect ..).1
    · change (sidesOf _).Contains x y ↔ (sidesOf s.recta).Contains x y ∧ (sidesOf s.rectb).Contains x y
      rw [sidesOf_recto_of_shared shared, overlap_contains_iff]
  · rw [intersect_of_not_shared (a := sidesOf s.recta) (b := sidesOf s.rectb) apart]
    exact publishRect_failure _

end Sys2Proof.Machine
end

section
/-! PROOF. AREA on the canvas (`44_area_clip_projector.md` R173 to R181): the outcomes of the tests in their order, and the
clipped rectangle along one axis. -/

namespace Sys2Proof.Machine

/-! ### The bounding box -/

theorem min4_le (f : Fin 4 → Int) (j : Fin 4) : min4 (f 0) (f 1) (f 2) (f 3) ≤ f j := by
  unfold min4
  fin_cases j <;> simp

theorem le_max4 (f : Fin 4 → Int) (j : Fin 4) : f j ≤ max4 (f 0) (f 1) (f 2) (f 3) := by
  unfold max4
  fin_cases j <;> simp

variable {p : Quad (Point F32)} {w h : Int}

theorem boxOf_contains_x (j : Fin 4) : (boxOf p).xmin ≤ (p.get j).x.real ∧ (p.get j).x.real ≤ (boxOf p).xmax :=
  ⟨min4_le (fun i => (p.get i).x.real) j, le_max4 (fun i => (p.get i).x.real) j⟩

theorem boxOf_contains_y (j : Fin 4) : (boxOf p).ymin ≤ (p.get j).y.real ∧ (p.get j).y.real ≤ (boxOf p).ymax :=
  ⟨min4_le (fun i => (p.get i).y.real) j, le_max4 (fun i => (p.get i).y.real) j⟩

/-! ### One axis -/

/-- Along one axis the span `lo .. hi`, in units, overlaps the canvas of `dim` pixels, and is clipped to the `size` pixels
from `origin`, at least one (R175 to R178). -/
structure ClippedTo (lo hi dim origin size : Int) : Prop where
  notBefore : 0 ≤ hi
  notBeyond : lo < dim * 2 ^ 149
  origin_eq : origin = clampedMin lo dim
  size_eq : size = clampedSize hi origin dim
  size_pos : 0 < size

section
variable {lo hi dim origin size v : Int}

/-- A span that overlaps a canvas with pixels is clipped to at least one (R178). -/
theorem clampedSize_pos (hdim : 1 ≤ dim) (hbefore : 0 ≤ hi) (hspan : lo ≤ hi) :
    0 < clampedSize hi (clampedMin lo dim) dim := by
  unfold clampedSize clampedMin ceilUnits floorUnits
  omega

theorem ClippedTo.onCanvas (c : ClippedTo lo hi dim origin size) :
    0 ≤ origin ∧ origin ≤ dim - 1 ∧ 1 ≤ size ∧ size ≤ dim - origin := by
  obtain ⟨-, -, horigin, hsize, hpos⟩ := c
  unfold clampedMin at horigin
  unfold clampedSize at hsize
  omega

/-- The clipped span starts at or before each value of the span that is not before the canvas (R176). -/
theorem ClippedTo.starts (c : ClippedTo lo hi dim origin size) (hv : lo ≤ v) (h0 : 0 ≤ v) : origin * 2 ^ 149 ≤ v := by
  have horigin := c.origin_eq
  unfold clampedMin floorUnits at horigin
  omega

/-- The clipped span ends at or after each value of the span, or at the canvas's edge (R177). -/
theorem ClippedTo.ends (c : ClippedTo lo hi dim origin size) (hv : v ≤ hi) :
    v ≤ (origin + size - 1) * 2 ^ 149 ∨ origin + size = dim := by
  have hsize := c.size_eq
  unfold clampedSize ceilUnits at hsize
  omega

end

/-! ### The outcomes -/

theorem offCanvas_eq_true_iff {b : Box} :
    offCanvas b w h = true ↔ b.xmax < 0 ∨ b.ymax < 0 ∨ w * 2 ^ 149 ≤ b.xmin ∨ h * 2 ^ 149 ≤ b.ymin := by
  simp only [offCanvas, Bool.or_eq_true, decide_eq_true_eq, or_assoc]

/-- A result rectangle is clipped to the canvas along both axes. -/
theorem areaOf_eq_rect {x y cw ch : Int} (hr : areaOf p w h = .rect x y cw ch) :
    ClippedTo (boxOf p).xmin (boxOf p).xmax w x cw ∧ ClippedTo (boxOf p).ymin (boxOf p).ymax h y ch := by
  unfold areaOf clipBox at hr
  split_ifs at hr with hfin hoff hdegenerate
  obtain ⟨rfl, rfl, rfl, rfl⟩ := AreaResult.rect.inj hr
  rw [offCanvas_eq_true_iff] at hoff
  push Not at hoff hdegenerate
  obtain ⟨hx0, hy0, hxw, hyh⟩ := hoff
  exact ⟨⟨hx0, hxw, rfl, rfl, hdegenerate.1⟩, ⟨hy0, hyh, rfl, rfl, hdegenerate.2⟩⟩

/-- A box that overlaps a canvas with pixels is clipped to at least one along each axis (R178). -/
theorem areaOf_eq_degenerate (hr : areaOf p w h = .failure degenerateCode) : w ≤ 0 ∨ h ≤ 0 := by
  unfold areaOf clipBox at hr
  split_ifs at hr with hfin hoff hdegenerate
  · exact absurd hr (by decide)
  · exact absurd hr (by decide)
  · rw [offCanvas_eq_true_iff] at hoff
    push Not at hoff
    obtain ⟨hx0, hy0, -, -⟩ := hoff
    by_contra! hcanvas
    obtain ⟨hw, hh⟩ := hcanvas
    have hx := clampedSize_pos hw hx0 ((boxOf_contains_x (p := p) 0).1.trans (boxOf_contains_x 0).2)
    have hy := clampedSize_pos hh hy0 ((boxOf_contains_y (p := p) 0).1.trans (boxOf_contains_y 0).2)
    omega

/-! ### The completion -/

variable {s t : State}

/-- A number between zero and a word's own is written without wrapping (R179). -/
theorem toInt_u32 {w : Word} {i : Int} (h0 : 0 ≤ i) (hw : i ≤ s32 w) : (u32 i).toInt = i := by
  have hlt : w.toInt < 2 ^ 31 := BitVec.toInt_lt
  exact BitVec.toInt_ofInt_eq_self (by decide) (by omega) (hw.trans_lt hlt)

theorem ClippedTo.toInt_words {lo hi origin size : Int} {dim : Word} (c : ClippedTo lo hi (s32 dim) origin size) :
    ClippedTo lo hi (s32 dim) (u32 origin).toInt (u32 size).toInt := by
  obtain ⟨horigin, horiginDim, hsize, hsizeDim⟩ := c.onCanvas
  rwa [toInt_u32 (w := dim) horigin (by omega), toInt_u32 (w := dim) (by omega) (by omega)]

/-- The two ways AREA completes: a failure with the zero rectangle, degenerate on a canvas without pixels only, or a success
with the box clipped to the canvas. -/
theorem exec_area_cases (h : exec .area s = .next t) :
    (t.ok = false ∧ t.recto = ⟨0, 0, 0, 0⟩ ∧ (t.rc = 3 → s.bufw.toInt ≤ 0 ∨ s.bufh.toInt ≤ 0)) ∨
    (t.ok = true ∧ t.rc = 0 ∧
      let b := boxOf (projectAll s.matrix (extentOf s.recta))
      ClippedTo b.xmin b.xmax s.bufw.toInt t.recto.q0.toInt t.recto.q2.toInt ∧
      ClippedTo b.ymin b.ymax s.bufh.toInt t.recto.q1.toInt t.recto.q3.toInt) := by
  rw [exec_area] at h
  cases h
  generalize hr : areaOf _ _ _ = r
  cases r with
  | rect x y cw ch =>
    obtain ⟨hx, hy⟩ := areaOf_eq_rect hr
    exact .inr ⟨succeed_ok _, rfl, hx.toInt_words, hy.toInt_words⟩
  | failure code =>
    refine .inl ⟨fail_ok .., rfl, fun hrc => ?_⟩
    obtain rfl | rfl | rfl := areaOf_code hr
    · exact absurd hrc (by decide : u32 noOverlapCode ≠ 3)
    · exact absurd hrc (by decide : u32 nonFiniteCode ≠ 3)
    · exact areaOf_eq_degenerate hr

/-- Settles O57: both axes are clipped to the canvas, and the words do not wrap. -/
theorem areaResultStaysOnCanvas : Obligations.AreaResultStaysOnCanvas := by
  intro s t h
  obtain ⟨hok, hrecto, -⟩ | ⟨hok, -, hx, hy⟩ := exec_area_cases h
  · exact ⟨fun hsuccess => absurd (hok.symm.trans hsuccess) (by decide), fun _ => hrecto⟩
  · refine ⟨fun _ => ?_, fun hfailure => absurd (hok.symm.trans hfailure) (by decide)⟩
    have hxCanvas := hx.onCanvas
    have hyCanvas := hy.onCanvas
    omega

/-- Settles O58: a clipped rectangle needs a pixel of the canvas along each axis, and a canvas with pixels leaves one. -/
theorem areaNeedsACanvas : Obligations.AreaNeedsACanvas := by
  intro s t h
  obtain ⟨hok, -, hcode⟩ | ⟨-, hrc, hx, hy⟩ := exec_area_cases h
  · exact ⟨fun _ => hok, fun hw hh hrc => by have := hcode hrc; omega⟩
  · have hxCanvas := hx.onCanvas
    have hyCanvas := hy.onCanvas
    exact ⟨by omega, fun _ _ => hrc ▸ by decide⟩

/-- Settles O59: each corner lies in the box, which is clipped along both axes. -/
theorem areaCoversProjectedCorners : Obligations.AreaCoversProjectedCorners := by
  intro s t h hsuccess p j
  obtain ⟨hok, -⟩ | ⟨-, -, hx, hy⟩ := exec_area_cases h
  · exact absurd (hok.symm.trans hsuccess) (by decide)
  · obtain ⟨hxmin, hxmax⟩ := boxOf_contains_x (p := p) j
    obtain ⟨hymin, hymax⟩ := boxOf_contains_y (p := p) j
    exact ⟨hx.starts hxmin, hx.ends hxmax, hy.starts hymin, hy.ends hymax⟩

end Sys2Proof.Machine
end

section
/-! PROOF. AREA as R170 to R178 of `44_area_clip_projector.md` state it: the corners and their projection from the registers,
and the tests and the clipped rectangle on exact rationals. -/

namespace Sys2Proof.Machine

/-! ### Corners and projection -/

theorem wadd_eq_add (a b : Word) : wadd a b = a + b := by
  rw [wadd, u32, BitVec.ofInt_add, s32, s32, BitVec.ofInt_toInt, BitVec.ofInt_toInt]

theorem wsub_eq_sub (a b : Word) : wsub a b = a - b := by
  rw [wsub, u32, sub_eq_add_neg, BitVec.ofInt_add, BitVec.ofInt_neg, s32, s32, BitVec.ofInt_toInt, BitVec.ofInt_toInt,
    BitVec.sub_eq_add_neg]

theorem corners_get (q : Quad Word) (j : Fin 4) :
    (corners (extentOf q)).get j =
      ⟨(if j = 1 ∨ j = 2 then q.q0 + q.q2 - 1 else q.q0).toInt,
        (if j = 2 ∨ j = 3 then q.q1 + q.q3 - 1 else q.q1).toInt⟩ := by
  rw [← wadd_eq_add, ← wadd_eq_add, ← wsub_eq_sub, ← wsub_eq_sub]
  fin_cases j <;> rfl

/-! ### Exact rationals -/

/-- The rational number of `u` units (R12). -/
def ofUnits (u : Int) : ℚ := u / 2 ^ 149

theorem ofUnits_monotone : Monotone ofUnits := fun _ _ h => div_le_div_of_nonneg_right (Int.cast_le.mpr h) (by positivity)

theorem ofUnits_min4 (a b c d : Int) :
    min (min (ofUnits a) (ofUnits b)) (min (ofUnits c) (ofUnits d)) = ofUnits (min4 a b c d) := by
  simp only [min4, ofUnits_monotone.map_min]

theorem ofUnits_max4 (a b c d : Int) :
    max (max (ofUnits a) (ofUnits b)) (max (ofUnits c) (ofUnits d)) = ofUnits (max4 a b c d) := by
  simp only [max4, ofUnits_monotone.map_max]

theorem ofUnits_neg_iff {u : Int} : ofUnits u < 0 ↔ u < 0 := by
  rw [ofUnits, div_lt_iff₀ (by positivity), zero_mul, Int.cast_lt_zero]

theorem le_ofUnits_iff {i u : Int} : (i : ℚ) ≤ ofUnits u ↔ i * 2 ^ 149 ≤ u := by
  rw [ofUnits, le_div_iff₀ (by positivity)]
  exact_mod_cast Iff.rfl

theorem floor_ofUnits (u : Int) : ⌊ofUnits u⌋ = floorUnits u := by
  have h := Rat.floor_intCast_div_natCast u (2 ^ 149)
  rwa [Nat.cast_pow, Nat.cast_pow] at h

theorem ceil_ofUnits (u : Int) : ⌈ofUnits u⌉ = ceilUnits u := by
  have h := Rat.ceil_intCast_div_natCast u (2 ^ 149)
  rwa [Nat.cast_pow, Nat.cast_pow] at h

/-! ### The tests and the clipping on exact rationals -/

theorem clampedMin_eq (lo dim : Int) : clampedMin lo dim = max 0 (min ⌊ofUnits lo⌋ (dim - 1)) := by
  rw [floor_ofUnits, clampedMin]

theorem clampedSize_eq (hi origin dim : Int) :
    clampedSize hi origin dim = min (⌈ofUnits hi⌉ - origin + 1) (dim - origin) := by
  rw [ceil_ofUnits, clampedSize]

theorem offCanvas_iff_ofUnits {b : Box} {w h : Int} : offCanvas b w h = true ↔
    ofUnits b.xmax < 0 ∨ ofUnits b.ymax < 0 ∨ (w : ℚ) ≤ ofUnits b.xmin ∨ (h : ℚ) ≤ ofUnits b.ymin := by
  rw [offCanvas_eq_true_iff, ofUnits_neg_iff, ofUnits_neg_iff, le_ofUnits_iff, le_ofUnits_iff]

theorem not_allFinite_iff {p : Quad (Point F32)} :
    (!allFinite p) = true ↔ ∃ j, (p.get j).x.isFinite = false ∨ (p.get j).y.isFinite = false := by
  simp only [allFinite, Quad.all, Bool.not_and, Bool.or_eq_true, Bool.not_eq_true', or_assoc, Fin.exists_fin_succ,
    IsEmpty.exists_iff, or_false]
  exact Iff.rfl

/-- Settles O56: the registers' corners and projection are those of the model, and its tests on units are those on exact
rationals, so the outcomes agree test by test. -/
theorem areaResult : Obligations.AreaResult := by
  refine ⟨rfl, fun s => ⟨_, exec_area s, onlyRectWritten_publishRect _, ?_⟩⟩
  intro cx cy row px py x y xmin xmax ymin ymax W H ox oy ow oh
  let p := projectAll s.matrix (extentOf s.recta)
  have hp (j : Fin 4) : p.get j = ⟨px j, py j⟩ := by
    change ((corners (extentOf s.recta)).map (project s.matrix)).get j = _
    rw [Quad.get_map, corners_get]
    rfl
  have hpx : px = fun j => (p.get j).x := funext fun j => by rw [hp]
  have hpy : py = fun j => (p.get j).y := funext fun j => by rw [hp]
  -- The rest depends on the projected corners alone.
  generalize ht : s.publishRect (areaOf _ _ _) = t
  replace ht : t = s.publishRect (areaOf p W H) := ht.symm
  clear_value px py p
  subst hpx hpy
  have hxmin : xmin = ofUnits (boxOf p).xmin := ofUnits_min4 ..
  have hxmax : xmax = ofUnits (boxOf p).xmax := ofUnits_max4 ..
  have hymin : ymin = ofUnits (boxOf p).ymin := ofUnits_min4 ..
  have hymax : ymax = ofUnits (boxOf p).ymax := ofUnits_max4 ..
  have hox : ox = clampedMin (boxOf p).xmin W := by rw [clampedMin_eq, ← hxmin]
  have hoy : oy = clampedMin (boxOf p).ymin H := by rw [clampedMin_eq, ← hymin]
  have how : ow = clampedSize (boxOf p).xmax (clampedMin (boxOf p).xmin W) W := by rw [clampedSize_eq, ← hxmax, ← hox]
  have hoh : oh = clampedSize (boxOf p).ymax (clampedMin (boxOf p).ymin H) H := by rw [clampedSize_eq, ← hymax, ← hoy]
  rw [hxmin, hxmax, hymin, hymax, how, hoh, hox, hoy]
  simp only [← not_allFinite_iff, ← offCanvas_iff_ofUnits]
  rw [ht, areaOf, clipBox]
  split_ifs
  · exact publishRect_failure _
  · exact publishRect_failure _
  · exact publishRect_failure _
  · exact publishRect_rect ..

end Sys2Proof.Machine
end

section
/-! PROOF. What every completion records, and the line `irq` (`60_exceptions.md` R210, R213, R216, R226). -/

namespace Sys2Proof.Machine

variable {s t : State}

/-! ### Every word in flight completes -/

/-- No meaning stops: MSOLVE alone answers in two ways, and either is a next state. -/
theorem exists_exec_eq_next (i : Instr) (s : State) : ∃ t, exec i s = .next t := by
  cases i with
  | mident | mmul | mtrans | mscale | mrot | mpersp | minv | mchkinv => exact ⟨_, rfl⟩
  | msolve =>
    cases h : solveTransform s.sourcePoints s.destPoints with
    | none => exact ⟨_, exec_msolve_none h⟩
    | some m => exact ⟨_, exec_msolve_some h⟩
  | qenc => exact ⟨_, exec_qenc s⟩
  | area => exact ⟨_, exec_area s⟩
  | risect => exact ⟨_, exec_risect s⟩

/-- Settles O21: a legal word completes by its meaning, which always answers and ends in `State.finish`, and an illegal word
by `State.completeIllegal`. -/
theorem everyCommandCompletes : Obligations.EveryCommandCompletes := by
  intro s w moves latched
  rw [step_of_blockMovesNext moves]
  cases decoded : decode w with
  | command i =>
    rw [completeLatched_of_command (s := s.afterEvent) latched decoded]
    obtain ⟨t, ran⟩ := exists_exec_eq_next i s.afterEvent
    obtain ⟨s', ok, code, q, rfl, hcmd, hctrl, hcode, hok⟩ := exec_eq_finish ran
    exact ⟨_, ok, code, ran, completedWith_finish hcmd hctrl, hcode, hok⟩
  | illegal why =>
    exact ⟨_, false, illegalCode, completeLatched_of_illegal (s := s.afterEvent) latched decoded,
      completedWith_finish rfl rfl, by decide, by decide⟩

/-! ### The line `irq` -/

theorem irq_eq_ie_and_done (s : State) : s.irq = (s.ie && s.done) := rfl

theorem irq_of_done_clear (h : s.done = false) : s.irq = false := by
  rw [irq_eq_ie_and_done, h, Bool.and_false]

/-- A completion raises the line exactly when it is enabled. -/
theorem CompletedWith.irq {ok : Bool} {code : Int} (h : CompletedWith s t ok code) : t.irq = s.ie := by
  rw [irq_eq_ie_and_done, h.done, Bool.and_true, State.ie, h.ctrl, State.ie]

/-- Settles O23: the line follows `IE` and `DONE`, whose changes by a completion, a write to `STATUS` or `CTRL` and an
acceptance are those of O21, O8, O9 and O10. -/
theorem irqIsEnableAndDone : Obligations.IrqIsEnableAndDone := by
  refine ⟨by decide, irq_eq_ie_and_done, fun s w moves latched => ?_, fun s => ?_, fun s v hv => ?_, fun s v idle => ?_,
    fun s v hv => ?_⟩
  · obtain ⟨t, ok, code, hstep, hcompleted, -⟩ := everyCommandCompletes s w moves latched
    exact ⟨t, hstep, hcompleted.done, hcompleted.irq⟩
  · have hread := hostReadsByRunState s .status
    exact ⟨_, _, hread.1 (.inr (.inr (.inl rfl))), rfl, doneBit_statusWord ..⟩
  · obtain ⟨t, hstep, -, -, hdone, -⟩ := statusWriteClearsFlags s v
    rw [hv, Bool.not_true, Bool.and_false] at hdone
    exact ⟨t, hstep, hdone, irq_of_done_clear hdone⟩
  · obtain ⟨t, hstep, -, -, -, hdone, -⟩ := commandAcceptance s v idle
    exact ⟨t, hstep, hdone, irq_of_done_clear hdone⟩
  · obtain ⟨t, hstep, hie, -, hframe⟩ := ctrlWriteSetsEnable s v
    have hdone : t.done = s.done := by rw [hframe]; rfl
    exact ⟨t, hstep, by rw [irq_eq_ie_and_done, hie, hv, Bool.false_and], hdone⟩

end Sys2Proof.Machine
end

section
/-! PROOF. What sets and what clears the sticky flags `ILL` and `QOVF` (`10_state.md` R34, R39, `60_exceptions.md` R215). -/

namespace Sys2Proof.Machine

variable {s t : State} {i : Instr}

/-- Every command but QENC keeps both sticky flags. -/
theorem exec_keepsSticky (h : exec i s = .next t) (hi : i ≠ .qenc) : KeepsSticky s t := by
  cases i with
  | mident | mmul | mtrans | mscale | mrot | mpersp | minv | mchkinv =>
    cases h
    exact (onlyMatrixWritten_finish ..).sticky
  | msolve =>
    obtain ⟨m, -, rfl⟩ | ⟨-, rfl⟩ := exec_msolve_next h
    · exact (onlyMatrixWritten_finish ..).sticky
    · exact (onlyMatrixWritten_finish ..).sticky
  | qenc => exact absurd rfl hi
  | area =>
    rw [exec_area] at h
    cases h
    exact (onlyRectWritten_publishRect _).sticky
  | risect =>
    rw [exec_risect] at h
    cases h
    exact (onlyRectWritten_publishRect _).sticky

/-- QENC keeps `ILL`, and never clears `QOVF`. -/
theorem exec_qenc_sticky (h : exec .qenc s = .next t) :
    t.ill = s.ill ∧ t.qovf = (s.qovf || s.matrix.any overflowsQ16) := by
  rw [exec_qenc] at h
  cases h
  exact ⟨(finish_ill ..).trans (Bool.or_false _), finish_qovf ..⟩

/-- Where both flags are kept, neither is set and neither is cleared. -/
theorem KeepsSticky.no_change {P Q R S : Prop} (h : KeepsSticky s t) :
    (s.ill = false → t.ill = true → P) ∧ (s.qovf = false → t.qovf = true → Q) ∧
    (s.ill = true → t.ill = false → R) ∧ (s.qovf = true → t.qovf = false → S) := by
  simp +contextual [h.ill, h.qovf]

/-- A write to a flag never sets it, and clears it only by a written 1 (R34). -/
theorem flag_write_change {old written new : Bool} {P : Prop} (h : new = (old && !written)) :
    (old = false → new = true → P) ∧ (old = true → new = false → written = true) := by
  subst h
  cases old <;> simp

/-- Settles O24: of the effects of a step only the two completions set a sticky flag, and only a write to `STATUS` and a reset
clear one. -/
theorem stickyFlagSources : Obligations.StickyFlagSources := by
  intro s t h
  cases step_effect h with
  | @completed w i _ moves latched decoded ran =>
    by_cases hi : i = .qenc
    · subst hi
      obtain ⟨hill, hqovf⟩ := exec_qenc_sticky ran
      simp +contextual [hill, hqovf, moves, latched, decoded]
    · obtain ⟨hill, hqovf⟩ := exec_keepsSticky ran hi
      exact KeepsSticky.no_change ⟨hill, hqovf⟩
  | completedIllegal moves latched decoded => simp +contextual [moves, latched, decoded]
  | stayedIdle | answered | ctrlWritten => exact KeepsSticky.no_change ⟨rfl, rfl⟩
  | @statusWritten v es next =>
    obtain ⟨hsetIll, hclearIll⟩ := flag_write_change (illBit_write s.status v)
    obtain ⟨hsetQovf, hclearQovf⟩ := flag_write_change (qovfBit_write s.status v)
    exact ⟨hsetIll, hsetQovf, fun hill hcleared => .inl ⟨v, es, next, hclearIll hill hcleared⟩,
      fun hqovf hcleared => .inl ⟨v, es, next, hclearQovf hqovf hcleared⟩⟩
  | @accepted v => exact KeepsSticky.no_change ⟨accept_ill _ v, accept_qovf _ v⟩
  | dataWritten => exact KeepsSticky.no_change ⟨writeData_ill .., writeData_qovf ..⟩
  | resetTaken next => simp [next]

end Sys2Proof.Machine
end

section
/-! PROOF. A reset abandons the command in flight (`70_reset_and_hazards.md` R241). -/

namespace Sys2Proof.Machine

/-- Settles O15: `State.afterReset` takes from the old state only what the outside has scheduled and the count of draws. -/
theorem resetAbandonsTheCommand : Obligations.ResetAbandonsTheCommand := by
  intro s
  exact ⟨s.afterReset, step_reset s, afterReset_busy s, afterReset_done s, afterReset_latched s, rfl⟩

end Sys2Proof.Machine
end

section
/-! PROOF. Where a fault comes from, and that a host which keeps its duty sees none (`60_exceptions.md` R210,
`70_reset_and_hazards.md` R246). -/

namespace Sys2Proof.Machine

variable {s : State} {f : Fault}

/-- No command's meaning faults, so a completion faults only for want of a latched word. -/
theorem completeLatched_fault (h : s.completeLatched = .fault f) : s.latched = none ∧ f = .nothingLatched := by
  cases latched : s.latched with
  | none =>
    rw [State.completeLatched, latched] at h
    cases h
    exact ⟨rfl, rfl⟩
  | some w =>
    cases decoded : decode w with
    | command i =>
      obtain ⟨t, ran⟩ := exists_exec_eq_next i s
      rw [completeLatched_of_command latched decoded, ran] at h
      cases h
    | illegal why =>
      rw [completeLatched_of_illegal latched decoded] at h
      cases h

theorem blockTurn_fault (h : s.blockTurn = .fault f) : s.busy = true ∧ s.latched = none ∧ f = .nothingLatched := by
  cases hb : s.busy with
  | false =>
    rw [blockTurn_of_idle hb] at h
    cases h
  | true =>
    rw [State.blockTurn, if_pos hb] at h
    exact ⟨rfl, completeLatched_fault h⟩

/-- A write faults only at a register that takes a command or data, and only while Running (R56 f). -/
theorem hostWrite_fault {off : Nat} {v : Word} (h : s.hostWrite off v = .fault f) :
    ∃ r : Reg, r.offset = off ∧ (r.writeKind = .command ∨ r.writeKind = .data) ∧ s.busy = true ∧
      f = .writeWhileRunning r := by
  unfold State.hostWrite at h
  split at h
  · cases h
  · next r hr =>
    split at h
    · cases h
    · cases h
    · cases h
    · next kind =>
      split at h
      · next hb => cases h; exact ⟨r, offset_of_regAt hr, .inl kind, hb, rfl⟩
      · cases h
    · next kind =>
      split at h
      · next hb => cases h; exact ⟨r, offset_of_regAt hr, .inr kind, hb, rfl⟩
      · cases h

/-- An access that faults was admitted: it is a write of one register of the block. -/
theorem hostAccess_fault {a : Access} (h : s.hostAccess a = .fault f) :
    ∃ (r : Reg) (v : Word), .access a = writeAt r.offset v ∧ (r.writeKind = .command ∨ r.writeKind = .data) ∧
      s.busy = true ∧ f = .writeWhileRunning r := by
  by_cases hin : a.inBlock
  case neg => rw [hostAccess_outside hin] at h; cases h
  by_cases hw : a.wordWide
  case neg => rw [hostAccess_of_width hin hw] at h; cases h
  by_cases hal : a.aligned
  case neg => rw [hostAccess_misaligned hin hw hal] at h; cases h
  cases a with
  | read addr n => simp [State.hostAccess, hin, hw, hal] at h
  | write addr n v =>
    obtain ⟨off, rfl⟩ := Nat.exists_eq_add_of_le (inBlock_iff.mp hin).1
    obtain rfl : n = 4 := wordWide_iff.mp hw
    have hwrite : s.hostWrite off v = .fault f := by
      simpa [State.hostAccess, hin, hw, hal, Access.addr] using h
    obtain ⟨r, rfl, kind, hb, hf⟩ := hostWrite_fault hwrite
    exact ⟨r, v, rfl, kind, hb, hf⟩

/-- The first event of the schedule is the next event. -/
theorem eq_withEvent {e : Event} {es : List Event} (h : s.schedule = e :: es) : s = s.afterEvent.withEvent e := by
  cases s
  cases h
  rfl

/-- Every step that faults: the block is Running with no command latched, or it is written at `CMD` or a data register
while Running. -/
theorem step_fault (h : step s = .fault f) :
    (s.busy = true ∧ s.latched = none ∧ f = .nothingLatched) ∨
    ∃ (r : Reg) (v : Word) (es : List Event), s.schedule = writeAt r.offset v :: es ∧
      (r.writeKind = .command ∨ r.writeKind = .data) ∧ s.busy = true ∧ f = .writeWhileRunning r := by
  cases hs : s.schedule with
  | nil =>
    rw [step_of_schedule_nil hs] at h
    exact .inl (blockTurn_fault h)
  | cons e es =>
    rw [eq_withEvent hs] at h
    cases e with
    | completion =>
      rw [step_completion] at h
      exact .inl (blockTurn_fault (s := s.afterEvent) h)
    | access a =>
      rw [step_access] at h
      obtain ⟨r, v, hwrite, kind, hb, hf⟩ := hostAccess_fault h
      exact .inr ⟨r, v, es, by rw [hwrite], kind, hb, hf⟩
    | reset =>
      rw [step_reset] at h
      cases h

/-- Settles O18: of the two faults the invariant shuts out the first, since a Running block has a command latched, and the
duty the second. -/
theorem dutifulHostNeverFaults : Obligations.DutifulHostNeverFaults := by
  intro s hinv hduty f hfault
  obtain ⟨hb, hlatched, -⟩ | ⟨r, v, es, hnext, kind, hb, -⟩ := step_fault hfault
  · cases hlatched.symm.trans (hinv.latchedWhileRunning hb)
  · cases hb.symm.trans (hduty r v es hnext kind)

end Sys2Proof.Machine
end
